-- ==== Sys2Proof/Word.lean ====
section
/-! DEFINITION. The bit widths the spec fixes (00_scope.md R8, R9): words and timestamps of 32 bits,
wire bytes of 8 bits, event words of 64 bits. Arithmetic on them is unsigned and modulo 2^width (R12). -/

namespace Sys2Proof

/-- `UInt8` of the spec: one byte of a payload or of the wire (00_scope.md R9). -/
abbrev Byte := BitVec 8

/-- `UInt32` of the spec: the registers of `DecoderState` (00_scope.md R9, R8 `COUNT_WIDTH`). -/
abbrev Word := BitVec 32

/-- A timestamp in milliseconds, `TIME_WIDTH` = 32 bits (00_scope.md R8). -/
abbrev Time := BitVec 32

/-- An event word EV of 64 bits (30_encoding.md R66). -/
abbrev EventWord := BitVec 64

end Sys2Proof
end

