-- ==== Sys2Proof/Config.lean ====
section
/-! DEFINITION. The implementation parameters of 00_scope.md R8: the constants the source fixes, and the
parameters it leaves open. A parameter is fixed when the block is built; no event reads it as state and no
event writes it (10_state.md R31). And the environment: the inputs it gives the block are no choice of the block's. -/

namespace Sys2Proof.Config

/-- `SILENCE_MS` (R8, 60_exceptions.md R184): a frame is complete after strictly more than this silence. -/
def silenceMs : Nat := 25

/-- `START`, decimal 1 (30_encoding.md R79). -/
def start : Byte := 1

/-- `STOP`, decimal 4 (30_encoding.md R79). -/
def stop : Byte := 4

/-- `ESC`, decimal 10, the escape sentinel (30_encoding.md R79). -/
def esc : Byte := 10

/-- `ESC_OFFSET`, decimal 20 (00_scope.md R8, 30_encoding.md R81). -/
def escOffset : Byte := 20

/-- `PAYLOAD_LEN` (00_scope.md R8): a payload has exactly 7 bytes. -/
def payloadLen : Nat := 7

/-- `BAUD` (00_scope.md R8, 60_exceptions.md R185): OPEN, a property of the transport outside the block; no
rule reads it, and no definition of this model does. DESIGN CHOICE, log 6, safe. -/
opaque baud : Nat

end Sys2Proof.Config

namespace Sys2Proof.Machine

/-- The input pins of one clock edge (30_encoding.md R90, R94). -/
structure PortPins where
  init : Bool
  nowMs : Time
  d0Pulse : Bool
  d1Pulse : Bool
  pollReq : Bool
  sendReq : Bool
  sendPayload : BitVec 56
  txReady : Bool
deriving DecidableEq, Repr

/-- One input the environment gives the block: an event of the transaction level, as its event word and its `now`
value (30_encoding.md R66, R69), or one rising edge of `clk` at the port level (R91, R95). -/
inductive Input where
  | event (word : EventWord) (now : Time)
  | cycle (pins : PortPins)
deriving DecidableEq, Repr

end Sys2Proof.Machine

/-- What the environment does when nothing is placed in State's `inputs`: at its turn `n` it gives the block an input,
or nothing. A run may be infinite (20_memory.md R52), and the block does not choose it: a free value, with no body. The
machine reads it and State counts the turns (DESIGN CHOICE, log 2, safe). -/
opaque Sys2Proof.Config.environment : Nat → Option Sys2Proof.Machine.Input

namespace Sys2Proof

/-- The parameters R8 leaves OPEN, which "the model takes as an argument". State carries them to `exec`
(notes/assumptions/4.md). -/
structure Params where
  /-- `VALIDATE_PARITY` (R8): both values are specified. -/
  validateParity : Bool
  /-- `PARITY_26` (R8): it has effect only when `validateParity` is true. -/
  parity26 : Bool
deriving DecidableEq, Repr

/-- The configuration of State.reset: `PARITY_26` has R8's default; `VALIDATE_PARITY` has no default in the
spec, and false is the test vectors' configuration (95_test_vectors.md, Notation). DESIGN CHOICE, log 4, unsafe
for a statement about State.reset alone. -/
def Params.base : Params := { validateParity := false, parity26 := false }

end Sys2Proof
end

