-- ==== Sys2Proof/Syntax.lean ====
section
/-! DEFINITION. The events of the block: one constructor of `Instr` for each row of spec/opcode_table.json
(30_encoding.md R67), and the 7-byte payload SEND carries (R84). -/

namespace Sys2Proof

/-- `FramePayload` (30_encoding.md R84), fields in wire order (20_memory.md R46): `P[0]` is `deviceId`, `P[1]` is
`counterHigh`, `P[2]` is `counterLow`, `P[3]` to `P[6]` are the credential's bytes 3 down to 0. The type holds
exactly the 2^56 payloads: SEND needs no validation (43_frame_encoder.md R147). -/
structure FramePayload where
  deviceId : Byte
  counterHigh : Byte
  counterLow : Byte
  cred3 : Byte
  cred2 : Byte
  cred1 : Byte
  cred0 : Byte
deriving DecidableEq, Repr

/-- `P[0..6]` as a list, in the order of 20_memory.md R46. -/
def FramePayload.toList (p : FramePayload) : List Byte :=
  [p.deviceId, p.counterHigh, p.counterLow, p.cred3, p.cred2, p.cred1, p.cred0]

/-- The eight events (00_scope.md R10, 30_encoding.md R67). -/
inductive Instr where
  /-- INIT, op 0x1 (44_initialize.md R160). -/
  | init
  /-- PULSE_D0, op 0x2 (40_pulse.md R100). -/
  | pulseD0
  /-- PULSE_D1, op 0x3 (40_pulse.md R101). -/
  | pulseD1
  /-- POLL, op 0x4 (41_resolution.md R110). -/
  | poll
  /-- GET_CODE, op 0x5 (42_accessors.md R130). -/
  | getCode
  /-- GET_CODE_BYTES, op 0x6 (42_accessors.md R131). -/
  | getCodeBytes
  /-- GET_WIDTH, op 0x7 (42_accessors.md R132). -/
  | getWidth
  /-- SEND, op 0x8, with its payload operand (43_frame_encoder.md R146). -/
  | send (payload : FramePayload)
deriving DecidableEq, Repr

end Sys2Proof
end

