-- ==== Sys2Proof/WellFormed.lean ====
section
/-! DEFINITION. What can be ill-formed. A term of `Instr` cannot: its only operand, seven bytes, is admissible at
every value (43_frame_encoder.md R147), and its type holds nothing else. A WORD can be ill-formed (30_encoding.md
R70), and so can a list of bytes offered as a payload (R84: exactly 7). The word check is written from the match
and mask columns of spec/opcode_table.json (R67), not from the decoder's fields, so that the two can be held
against each other. -/

namespace Sys2Proof

/-- One row of the opcode table (30_encoding.md R67): a word belongs to the row when it agrees with `pattern` on
every bit of `mask`. -/
structure OpcodeRow where
  mnemonic : String
  pattern : EventWord
  mask : EventWord
deriving DecidableEq, Repr

/-- The rows of spec/opcode_table.json: for every event but SEND the whole word is fixed, for SEND its low eight
bits (R67). -/
def opcodeTable : List OpcodeRow :=
  [ ⟨"INIT", 0x0000000000000001, 0xFFFFFFFFFFFFFFFF⟩,
    ⟨"PULSE_D0", 0x0000000000000002, 0xFFFFFFFFFFFFFFFF⟩,
    ⟨"PULSE_D1", 0x0000000000000003, 0xFFFFFFFFFFFFFFFF⟩,
    ⟨"POLL", 0x0000000000000004, 0xFFFFFFFFFFFFFFFF⟩,
    ⟨"GET_CODE", 0x0000000000000005, 0xFFFFFFFFFFFFFFFF⟩,
    ⟨"GET_CODE_BYTES", 0x0000000000000006, 0xFFFFFFFFFFFFFFFF⟩,
    ⟨"GET_WIDTH", 0x0000000000000007, 0xFFFFFFFFFFFFFFFF⟩,
    ⟨"SEND", 0x0000000000000008, 0x00000000000000FF⟩ ]

/-- The word agrees with the row's fixed bits. -/
def OpcodeRow.matches (r : OpcodeRow) (w : EventWord) : Bool :=
  (w &&& r.mask) == r.pattern

/-- A word is well-formed when it belongs to a row of the table; every other word is reserved (R70). -/
def EventWord.wellFormed (w : EventWord) : Bool :=
  opcodeTable.any fun r => r.matches w

/-- The mnemonic of an event (30_encoding.md R86). -/
def Instr.mnemonic : Instr → String
  | .init => "INIT"
  | .pulseD0 => "PULSE_D0"
  | .pulseD1 => "PULSE_D1"
  | .poll => "POLL"
  | .getCode => "GET_CODE"
  | .getCodeBytes => "GET_CODE_BYTES"
  | .getWidth => "GET_WIDTH"
  | .send _ => "SEND"

/-- A payload from a list of bytes: exactly `PAYLOAD_LEN` = 7 of them (30_encoding.md R84), in the order of
20_memory.md R46. -/
def FramePayload.ofList? : List Byte → Option FramePayload
  | [b0, b1, b2, b3, b4, b5, b6] => some ⟨b0, b1, b2, b3, b4, b5, b6⟩
  | _ => none

end Sys2Proof
end

