-- ==== Sys2Proof/Decode.lean ====
section
/-! DEFINITION. From event words to events and back (30_encoding.md R66 to R70). `decode` is total on 64-bit words
and refuses a reserved word by name; `encode` is written from the same table. -/

namespace Sys2Proof

/-- Why a word is reserved: the three clauses of 30_encoding.md R70. -/
inductive Reserved where
  /-- `op` is 0x0 or in 0x9 to 0xF. -/
  | opcode
  /-- `rsv` is not 0. -/
  | rsvField
  /-- `op` is not 0x8 and `operand` is not 0. -/
  | operand
deriving DecidableEq, Repr

/-- Field `op`, bits 3:0 (R66). -/
def EventWord.op (w : EventWord) : BitVec 4 := w.extractLsb' 0 4

/-- Field `rsv`, bits 7:4 (R66). -/
def EventWord.rsv (w : EventWord) : BitVec 4 := w.extractLsb' 4 4

/-- Field `operand`, bits 63:8 (R66). -/
def EventWord.operand (w : EventWord) : BitVec 56 := w.extractLsb' 8 56

/-- SEND's operand as a payload (R68): `P[i]` is bits `63-8i : 56-8i` of the word, which are bits
`55-8i : 48-8i` of the operand. -/
def payloadOfOperand (v : BitVec 56) : FramePayload where
  deviceId := v.extractLsb' 48 8
  counterHigh := v.extractLsb' 40 8
  counterLow := v.extractLsb' 32 8
  cred3 := v.extractLsb' 24 8
  cred2 := v.extractLsb' 16 8
  cred1 := v.extractLsb' 8 8
  cred0 := v.extractLsb' 0 8

/-- The payload as SEND's operand (R68), `P[0]` most significant. -/
def operandOfPayload (p : FramePayload) : BitVec 56 :=
  p.deviceId ++ p.counterHigh ++ p.counterLow ++ p.cred3 ++ p.cred2 ++ p.cred1 ++ p.cred0

/-- The events without an operand, by `op` (R67). -/
def plainEvent : Nat → Option Instr
  | 0x1 => some .init
  | 0x2 => some .pulseD0
  | 0x3 => some .pulseD1
  | 0x4 => some .poll
  | 0x5 => some .getCode
  | 0x6 => some .getCodeBytes
  | 0x7 => some .getWidth
  | _ => none

/-- The decoder (R66 to R70). A word that breaks several clauses of R70 is refused under the first of them
(DESIGN CHOICE, log 17, safe: only the reason's name depends on it). -/
def decode (w : EventWord) : Except Reserved Instr :=
  if w.op = 0x8 then
    if w.rsv = 0 then .ok (.send (payloadOfOperand w.operand)) else .error .rsvField
  else
    match plainEvent w.op.toNat with
    | none => .error .opcode
    | some i =>
      if w.rsv ≠ 0 then .error .rsvField
      else if w.operand ≠ 0 then .error .operand
      else .ok i

/-- The encoder (R67, R68). -/
def encode : Instr → EventWord
  | .init => 0x1
  | .pulseD0 => 0x2
  | .pulseD1 => 0x3
  | .poll => 0x4
  | .getCode => 0x5
  | .getCodeBytes => 0x6
  | .getWidth => 0x7
  | .send p => operandOfPayload p ++ (0x08 : BitVec 8)

/-- The word of which the host gives `nbits` bits, every bit above them 0. -/
def tableWord (nbits w : Nat) : EventWord := BitVec.ofNat 64 (w % 2 ^ nbits)

/-- What the decoder reads from a table word; `none` where it refuses. The block has no memory and an event word is
one unit (20_memory.md R50, 30_encoding.md R66), so there is no byte order to apply. -/
def decodeTableWord (nbits w : Nat) : Option Instr :=
  match decode (tableWord nbits w) with
  | .ok i => some i
  | .error _ => none

end Sys2Proof
end

