-- ==== Sys2Proof/Machine/State.lean ====
section
/-! DEFINITION. The state of the block (10_state.md), as plain data: the transaction level's pair `(ds, tx)` (R43),
the port level's transient state (30_encoding.md R90, R94), the parameters (00_scope.md R8), and the model's own
fields: the inputs placed in front and how far the environment's own have come, the time of the event in course and
what the last event returned. There is no
memory, program counter, flag, mode or trap state, because the spec gives the block none (R32 to R36, 20_memory.md
R50, 60_exceptions.md R181, R182). -/

namespace Sys2Proof.Machine

/-- `decoded_width` (10_state.md R26, 00_scope.md R15). -/
inductive DecodedWidth where
  | unknown
  | w26
  | w34
deriving DecidableEq, Repr

/-- `DecoderState`, the six registers of WD (10_state.md R20 to R26). -/
structure DecoderState where
  /-- `bit_count` (R23): pulses since the last resolution, modulo 2^32. -/
  bitCount : Word
  /-- `low_bits` (R22): the primary bit accumulator. -/
  lowBits : Word
  /-- `high_bits` (R21): the bits carried out of `low_bits`. -/
  highBits : Word
  /-- `last_pulse_time` (R24), milliseconds. -/
  lastPulseTime : Time
  /-- `decoded_code` (R25): the last credential. -/
  decodedCode : Word
  /-- `decoded_width` (R26): the width of the frame that produced it. -/
  decodedWidth : DecodedWidth
deriving DecidableEq, Repr

/-- The reset values of 10_state.md R39. -/
def DecoderState.reset : DecoderState where
  bitCount := 0
  lowBits := 0
  highBits := 0
  lastPulseTime := 0
  decodedCode := 0
  decodedWidth := .unknown

/-- What an event returns to its caller (20_memory.md R53). Not a register: the model's own record (log 3). -/
inductive Result where
  /-- INIT, PULSE_D0, PULSE_D1 and SEND return nothing. -/
  | nothing
  /-- POLL: the Boolean `available`. -/
  | available (b : Bool)
  /-- GET_CODE: 32 bits. -/
  | code (v : Word)
  /-- GET_CODE_BYTES: four bytes, in order. -/
  | codeBytes (b0 b1 b2 b3 : Byte)
  /-- GET_WIDTH: one byte. -/
  | width (v : Byte)
deriving DecidableEq, Repr

/-- A frame being emitted at the port level (30_encoding.md R94): `buf` and `idx`, which exist while `busy`
(log 9). -/
structure Emission where
  buf : List Byte
  idx : Nat
deriving DecidableEq, Repr

/-- The port level's own state (30_encoding.md R90, R94, 10_state.md R42). -/
structure PortState where
  /-- `busy`, with `buf` and `idx`: `some` while a frame is being emitted. -/
  emission : Option Emission
  /-- `poll_done` (`some`) and, while it is high, `poll_avail` (its content). -/
  pollReply : Option Bool
  /-- The bytes the transport has taken by the valid/ready handshake. -/
  taken : List Byte
deriving DecidableEq, Repr

/-- The whole state of the model. -/
structure State where
  /-- The parameters of 00_scope.md R8; no step writes them (log 4). -/
  params : Params
  /-- `ds` (10_state.md R43): `none` before the first INIT (R40). -/
  ds : Option DecoderState
  /-- `tx` (R43): the bytes emitted by SEND so far, in order. -/
  tx : List Byte
  /-- The port level's transient state (R42). -/
  port : PortState
  /-- What the last event returned (log 3). -/
  result : Result
  /-- The `now` input of the event in course (R44; log 3). -/
  now : Time
  /-- The inputs placed to come next, oldest first (20_memory.md R52; log 2). -/
  inputs : List Input
  /-- How many inputs the machine has drawn from the environment's own stream, `Config.environment` (R52; log 2). -/
  drawn : Nat
deriving DecidableEq, Repr

/-- The reasons a step can stop with a fault: none. "The block raises no exception, trap or fault. No event can
fail." (60_exceptions.md R170). Safe: nothing is lost. -/
inductive Fault
deriving DecidableEq, Repr

/-- The reasons a step can be refused: the model-level refusals of 60_exceptions.md R175. -/
inductive Refusal where
  /-- An event word matches 30_encoding.md R70; raised by the step, in every state, with the clause of R70 that the
  word breaks. Safe: "toward unprovable". -/
  | reservedEvent (why : Reserved)
  /-- Any event other than INIT while `ds = none` (10_state.md R40); raised by the meaning of the event, and by a
  port-level clock edge that carries such an event. Safe: "toward unprovable". -/
  | beforeInit
  /-- An instruction that has no meaning yet; raised by a refused arm of exec, and there is none. Safe. -/
  | notModelled (mnemonic : String)
deriving DecidableEq, Repr

/-- The encoder idle, no POLL reply, nothing taken (30_encoding.md R94: "After INIT, `busy = false`"). -/
def PortState.idle : PortState where
  emission := none
  pollReply := none
  taken := []

/-- Power-up, before the first INIT (10_state.md R40, R43; 95_test_vectors.md part 3: `ds = none`, `tx = []`). The spec
leaves the port-level encoder unspecified here (R40, 70_reset_and_hazards.md R200; 30_encoding.md R94 gives `busy` only
after INIT): that it is idle, with no POLL reply and nothing taken, so that a first `init` edge takes no byte, is the
model's choice (DESIGN CHOICE, log 28). -/
def State.powerOn (p : Params) : State where
  params := p
  ds := none
  tx := []
  port := .idle
  result := .nothing
  now := 0
  inputs := []
  drawn := 0

/-- The machine right after its one reset, INIT at power-up (70_reset_and_hazards.md R200, R201), for the parameters
`p`. -/
def State.resetWith (p : Params) : State where
  params := p
  ds := some .reset
  tx := []
  port := .idle
  result := .nothing
  now := 0
  inputs := []
  drawn := 0

/-- The machine right after reset (R200, R201), in the base configuration (log 1, log 4). -/
def State.reset : State := State.resetWith .base

end Sys2Proof.Machine
end

