-- ==== Sys2Proof/Machine/Flags.lean ====
section
/-! DEFINITION. The conditions the block computes. It has no flags or condition codes (10_state.md R34); what it
tests are the parities of a received frame (41_resolution.md R116 to R118). -/

namespace Sys2Proof.Machine

/-- `popcount(v)`: the number of 1 bits in `v` (00_scope.md R12). -/
def popcount {n : Nat} (v : BitVec n) : Nat :=
  (List.range n).countP fun i => v.getLsbD i

/-- `even(p, g)` holds when `popcount(g) + p` is even (R116). -/
def evenParity {n : Nat} (p : Bool) (g : BitVec n) : Bool :=
  (popcount g + p.toNat) % 2 == 0

/-- `odd(p, g)` holds when `popcount(g) + p` is odd (R116). -/
def oddParity {n : Nat} (p : Bool) (g : BitVec n) : Bool :=
  (popcount g + p.toNat) % 2 == 1

/-- `parity34_ok(PL, code, PT)` (R117): the leading bit even over `code[31:16]`, the trailing bit odd over
`code[15:0]`. The polarity is the spec's own, from general knowledge (D9, D10; log 11, unsafe). -/
def parity34Ok (leading : Bool) (code : Word) (trailing : Bool) : Bool :=
  evenParity leading (code.extractLsb' 16 16) && oddParity trailing (code.extractLsb' 0 16)

/-- `parity26_ok(F)` (R118): `F[25]` even over `F[24:13]`, `F[0]` odd over `F[12:1]` (D9, D10; log 11, unsafe). -/
def parity26Ok (f : Word) : Bool :=
  evenParity (f.getLsbD 25) (f.extractLsb' 13 12) && oddParity (f.getLsbD 0) (f.extractLsb' 1 12)

end Sys2Proof.Machine
end

