-- ==== Sys2Proof/Machine/Operands.lean ====
section
/-! DEFINITION. The operands of the events: the bit a line carries, the views of the accumulators that POLL reads
(41_resolution.md R113, R114), and the views of `decoded_code` and `decoded_width` that the accessors return
(42_accessors.md). SEND's operand, the payload, is taken from the word by the decoder (30_encoding.md R68). -/

namespace Sys2Proof.Machine

/-- The line's bit `b` as a word: 0 for data-0, 1 for data-1 (40_pulse.md R100, R101). -/
def lineBit (b : Bool) : Word := if b then 1 else 0

/-- `low_bits[31]` as a word: the bit about to leave `low_bits` (40_pulse.md R100). -/
def lowTop (d : DecoderState) : Word := d.lowBits >>> 31

/-- The compensating shift (41_resolution.md R113 step 1): the 26-bit frame `F`. -/
def frame26 (d : DecoderState) : Word := d.lowBits >>> 1

/-- `data = (F & 0x1FFFFFE) >> 1` (R113 step 2): the 24 data bits. -/
def code26 (d : DecoderState) : Word := (frame26 d &&& 0x1FFFFFE) >>> 1

/-- `code = ((high_bits & 0x3) << 30) | ((low_bits >> 1) >> 1)` (R114 steps 1 to 4): the 32 interior bits. -/
def code34 (d : DecoderState) : Word :=
  ((d.highBits &&& 0x3) <<< 30) ||| ((d.lowBits >>> 1) >>> 1)

/-- `PL = high_bits[2]`, the leading parity bit of a 34-bit frame (R117). -/
def leading34 (d : DecoderState) : Bool := d.highBits.getLsbD 2

/-- `PT = low_bits[1]`, the trailing parity bit of a 34-bit frame (R117). -/
def trailing34 (d : DecoderState) : Bool := d.lowBits.getLsbD 1

/-- Byte `k` of a word: bits `8k+7 : 8k` (20_memory.md R46). -/
def wordByte (v : Word) (k : Nat) : Byte := v.extractLsb' (8 * k) 8

/-- GET_WIDTH's byte (42_accessors.md R132): 0 for UNKNOWN, 26 or 34. -/
def DecodedWidth.toByte : DecodedWidth → Byte
  | .unknown => 0
  | .w26 => 26
  | .w34 => 34

end Sys2Proof.Machine
end

