-- ==== Sys2Proof/Machine/Ops.lean ====
section
/-! DEFINITION. The named operations the meanings are built from: writes of State's fields, the pulse step, frame
resolution, and the emission of bytes. There is no operation for taking or leaving an exception: "The block has no
trap entry, trap return, vector, saved state, nesting or delegation, because it has no traps" (60_exceptions.md
R181). There is none over memory: the block has none (20_memory.md R50). -/

namespace Sys2Proof.Machine

/-- What a step of this model answers. -/
abbrev Answer := Host.Outcome State Fault Refusal

/-! ## Writes of State's fields -/

/-- `S <- d`: the decoder's registers. -/
def State.setDecoder (s : State) (d : DecoderState) : State := { s with ds := some d }

/-- The value the event returns to its caller (00_scope.md R10, R14 `return`). -/
def State.setResult (s : State) (r : Result) : State := { s with result := r }

/-- `emit(xs)` (00_scope.md R14): appends `xs` to the transport output stream, in order. -/
def State.emit (s : State) (xs : List Byte) : State := { s with tx := s.tx ++ xs }

/-- `busy <- false` (44_initialize.md R162), and no POLL reply is pending. -/
def State.clearPort (s : State) : State :=
  { s with port := { s.port with emission := none, pollReply := none } }

/-- An input takes effect with the clock input `now` (30_encoding.md R69). -/
def State.atTime (s : State) (now : Time) : State := { s with now := now }

/-- Every event other than INIT is refused while the model holds no `DecoderState` (10_state.md R40,
60_exceptions.md R175); after INIT it runs on the decoder state `d`. -/
def State.withDecoder (s : State) (k : DecoderState → Answer) : Answer :=
  match s.ds with
  | none => .refused .beforeInit
  | some d => k d

/-! ## The pulse step (40_pulse.md R100) -/

/-- `pulse(b, now)` in R100's order: count, carry (tested after the increment), shift, timestamp. -/
def DecoderState.pulse (b : Bool) (now : Time) (d : DecoderState) : DecoderState :=
  let count := d.bitCount + 1
  let high := if count.toNat > 31 then (d.highBits <<< 1) ||| lowTop d else d.highBits
  { d with
    bitCount := count
    highBits := high
    lowBits := (d.lowBits ||| lineBit b) <<< 1
    lastPulseTime := now }

/-! ## Frame resolution (41_resolution.md R110 to R119) -/

/-- The outcomes of POLL (00_scope.md R15, 41_resolution.md R119). -/
inductive PollOutcome where
  | pending
  | ok26
  | ok34
  | noise
  | parityFail
deriving DecidableEq, Repr

/-- R119: `available` is true for OK26 and OK34 only. -/
def PollOutcome.available : PollOutcome → Bool
  | .ok26 => true
  | .ok34 => true
  | .pending => false
  | .noise => false
  | .parityFail => false

/-- `elapsed = (now - last_pulse_time) mod 2^32` (41_resolution.md R112). -/
def elapsed (now last : Time) : Time := now - last

/-- The 26-bit branch (R113). -/
def resolve26 (p : Params) (d : DecoderState) : DecoderState × PollOutcome :=
  if p.validateParity && p.parity26 && !parity26Ok (frame26 d) then
    (d, .parityFail)
  else
    ({ d with decodedCode := code26 d, decodedWidth := .w26 }, .ok26)

/-- The 34-bit branch (R114). -/
def resolve34 (p : Params) (d : DecoderState) : DecoderState × PollOutcome :=
  if p.validateParity && !parity34Ok (leading34 d) (code34 d) (trailing34 d) then
    (d, .parityFail)
  else
    ({ d with decodedCode := code34 d, decodedWidth := .w34 }, .ok34)

/-- The noise branch (R115): `last_pulse_time <- now`. -/
def resolveNoise (now : Time) (d : DecoderState) : DecoderState × PollOutcome :=
  ({ d with lastPulseTime := now }, .noise)

/-- Every resolution ends by clearing the accumulators (R111). -/
def DecoderState.clear (d : DecoderState) : DecoderState :=
  { d with bitCount := 0, lowBits := 0, highBits := 0 }

/-- POLL on the decoder state, in the order of R110 and R179: the silence test, the width, the parity. -/
def DecoderState.poll (p : Params) (now : Time) (d : DecoderState) : DecoderState × PollOutcome :=
  if (elapsed now d.lastPulseTime).toNat ≤ Config.silenceMs then
    (d, .pending)
  else
    let r :=
      if d.bitCount = 26 then resolve26 p d
      else if d.bitCount = 34 then resolve34 p d
      else resolveNoise now d
    (r.1.clear, r.2)

end Sys2Proof.Machine
end

