-- ==== Sys2Proof/Machine/Accessors.lean ====
section
/-! DEFINITION. The accessors GET_CODE, GET_CODE_BYTES and GET_WIDTH (42_accessors.md R130 to R134): each returns a
stored value and writes no state of the block. -/

namespace Sys2Proof.Machine

/-- GET_CODE (R130): `return S.decoded_code`. -/
def execGetCode (s : State) : Answer :=
  s.withDecoder fun d => .next (s.setResult (.code d.decodedCode))

/-- GET_CODE_BYTES (R131, 20_memory.md R45): the four bytes of `decoded_code`, most significant first. -/
def execGetCodeBytes (s : State) : Answer :=
  s.withDecoder fun d =>
    .next (s.setResult (.codeBytes (wordByte d.decodedCode 3) (wordByte d.decodedCode 2)
      (wordByte d.decodedCode 1) (wordByte d.decodedCode 0)))

/-- GET_WIDTH (R132): 0 for UNKNOWN, 26 or 34. -/
def execGetWidth (s : State) : Answer :=
  s.withDecoder fun d => .next (s.setResult (.width d.decodedWidth.toByte))

end Sys2Proof.Machine
end

