-- ==== Sys2Proof/Machine/FrameEncoder.lean ====
section
/-! DEFINITION. The frame encoder FE: escaping, checksum, frame assembly and SEND (43_frame_encoder.md R140 to R147),
and the receiver's unescape function, which the spec gives as a test oracle and not as hardware (R152). -/

namespace Sys2Proof.Machine

/-- The reserved set `RSV = {1, 4, 10}` (30_encoding.md R80). -/
def isReserved (b : Byte) : Bool :=
  b == Config.start || b == Config.stop || b == Config.esc

/-- The escape function `esc` (R141, 30_encoding.md R81). -/
def escapeByte (b : Byte) : List Byte :=
  if isReserved b then [Config.esc, b + Config.escOffset] else [b]

/-- The escaped bytes of a list, one after the other. -/
def escapeBytes (bs : List Byte) : List Byte := bs.flatMap escapeByte

/-- The escaped body `body(P)` (R142). -/
def frameBody (p : FramePayload) : List Byte := escapeBytes p.toList

/-- The sum of bytes modulo 256 (R143). -/
def byteSum (bs : List Byte) : Byte := bs.foldl (· + ·) 0

/-- The checksum `cs(P)` over the escaped body (R143). -/
def checksum (p : FramePayload) : Byte := byteSum (frameBody p)

/-- What stands between `START` and `STOP`: the escaped body and the escaped checksum (R144, 30_encoding.md R82). -/
def frameInside (p : FramePayload) : List Byte := frameBody p ++ escapeByte (checksum p)

/-- `frame(P)` (R145). -/
def frame (p : FramePayload) : List Byte := [Config.start] ++ frameInside p ++ [Config.stop]

/-- SEND (R146): `emit(frame(P))`; no result; no decoder state is read or written. Before the first INIT it is refused
like every other event (10_state.md R40). -/
def execSend (p : FramePayload) (s : State) : Answer :=
  s.withDecoder fun _ => .next ((s.emit (frame p)).setResult .nothing)

/-- The receiver's unescape (R152), a test oracle outside the block: 10 followed by `y` stands for `y - 20`, every
other byte for itself. A list that ends in a lone 10 is no escaped text; R152 gives it no value. -/
def unescape : List Byte → Option (List Byte)
  | [] => some []
  | [b] => if b = Config.esc then none else some [b]
  | b :: c :: rest =>
    if b = Config.esc then (unescape rest).map ((c - Config.escOffset) :: ·)
    else (unescape (c :: rest)).map (b :: ·)

end Sys2Proof.Machine
end

