-- ==== Sys2Proof/Machine/Initialize.lean ====
section
/-! DEFINITION. INIT, the block's only control event (44_initialize.md R160 to R162). -/

namespace Sys2Proof.Machine

/-- INIT (R160): the six reset values of 10_state.md R39, in every state, before any earlier INIT too; `tx` is kept
(R43); at the port level the encoder becomes idle (R162). -/
def execInit (s : State) : Answer :=
  .next ((s.setDecoder .reset).clearPort.setResult .nothing)

end Sys2Proof.Machine
end

