-- ==== Sys2Proof/Machine/Pulse.lean ====
section
/-! DEFINITION. Pulse handling: PULSE_D0 and PULSE_D1 (40_pulse.md R100 to R106), each one line over the shared pulse
step. -/

namespace Sys2Proof.Machine

/-- PULSE_D0 (R100): `pulse(0, now)`; it returns nothing (R106). -/
def execPulseD0 (s : State) : Answer :=
  s.withDecoder fun d => .next ((s.setDecoder (d.pulse false s.now)).setResult .nothing)

/-- PULSE_D1 (R101): `pulse(1, now)`; it returns nothing (R106). -/
def execPulseD1 (s : State) : Answer :=
  s.withDecoder fun d => .next ((s.setDecoder (d.pulse true s.now)).setResult .nothing)

end Sys2Proof.Machine
end

