-- ==== Sys2Proof/Machine/Resolution.lean ====
section
/-! DEFINITION. Frame resolution: POLL (41_resolution.md R110). -/

namespace Sys2Proof.Machine

/-- POLL (R110): resolves the frame if more than 25 ms of silence have passed; the caller gets only `available`
(R119). -/
def execPoll (s : State) : Answer :=
  s.withDecoder fun d =>
    let r := d.poll s.params s.now
    .next ((s.setDecoder r.1).setResult (.available r.2.available))

end Sys2Proof.Machine
end

