-- ==== Sys2Proof/Machine/Dispatch.lean ====
section
/-! DEFINITION. One arm per event of the opcode table (30_encoding.md R67). -/

namespace Sys2Proof.Machine

def exec (i : Instr) (s : State) : Host.Outcome State Fault Refusal :=
  match i with
  | .init => Sys2Proof.Machine.execInit s
  | .pulseD0 => Sys2Proof.Machine.execPulseD0 s
  | .pulseD1 => Sys2Proof.Machine.execPulseD1 s
  | .poll => Sys2Proof.Machine.execPoll s
  | .getCode => Sys2Proof.Machine.execGetCode s
  | .getCodeBytes => Sys2Proof.Machine.execGetCodeBytes s
  | .getWidth => Sys2Proof.Machine.execGetWidth s
  | .send payload => Sys2Proof.Machine.execSend payload s

end Sys2Proof.Machine
end

