-- ==== Sys2Proof/Machine/Port.lean ====
section
/-! DEFINITION. The port-level mapping (30_encoding.md R90 to R95, 44_initialize.md R162, 70_reset_and_hazards.md R211,
R212, R216): one rising edge of `clk`, and the output ports. The transaction level is normative over it (R90). -/

namespace Sys2Proof.Machine

/-- `busy` (R94). -/
def PortState.busy (p : PortState) : Bool := p.emission.isSome

/-- The bytes of the frame being emitted that the transport has not taken yet. -/
def PortState.untaken (p : PortState) : List Byte :=
  match p.emission with
  | none => []
  | some e => e.buf.drop e.idx

/-- `tx_data = buf[idx]`, a byte to take while `tx_valid = busy` (R94). -/
def PortState.txData (p : PortState) : Option Byte :=
  p.emission.bind fun e => e.buf[e.idx]?

/-- The transport takes `tx_data` (R94). -/
def PortState.takeByte (p : PortState) : PortState :=
  { p with taken := p.taken ++ p.txData.toList }

/-- The encoder at a rising edge (R95): accept a request when idle; when busy and `tx_ready`, advance, and become
idle after the last byte. A request while busy is ignored (R211). -/
def PortState.encoderEdge (pins : PortPins) (p : PortState) : PortState :=
  match p.emission with
  | none =>
    if pins.sendReq then
      { p with emission := some ⟨frame (payloadOfOperand pins.sendPayload), 0⟩ }
    else p
  | some e =>
    if pins.txReady then
      { p.takeByte with
        emission := if e.idx + 1 < e.buf.length then some { e with idx := e.idx + 1 } else none }
    else p

/-- The decoder's events of one edge without `init`, in the order of R91: POLL, then D0, then D1, all at `now_ms`.
The second component is the POLL's `available`, if there was a POLL. -/
def DecoderState.edge (params : Params) (pins : PortPins) (d : DecoderState) : DecoderState × Option Bool :=
  let r := if pins.pollReq then
      let q := d.poll params pins.nowMs
      (q.1, some q.2.available)
    else (d, none)
  let d0 := if pins.d0Pulse then r.1.pulse false pins.nowMs else r.1
  let d1 := if pins.d1Pulse then d0.pulse true pins.nowMs else d0
  (d1, r.2)

/-- No event is requested and no byte is taken at this edge. -/
def PortPins.quiet (pins : PortPins) : Bool :=
  !(pins.d0Pulse || pins.d1Pulse || pins.pollReq || pins.sendReq || pins.txReady)

/-- The handshake of an edge with `init` high: `tx_ready` takes `tx_data` at that edge (R94), but never the frame's last
byte, since "the transport has taken only a prefix of it, without `STOP`" (R212; log 10). -/
def PortState.takeCut (txReady : Bool) (p : PortState) : PortState :=
  match p.emission with
  | some e => if txReady && decide (e.idx + 1 < e.buf.length) then p.takeByte else p
  | none => p

/-- An edge with `init` high (R91 step 1, R162): INIT; the other decoder inputs are ignored; the encoder becomes idle
once the transport has had the byte of this edge, and a `send_req` of the same edge is not accepted (log 10). -/
def State.initEdge (pins : PortPins) (s : State) : State :=
  { s with
    ds := some .reset
    port := { s.port.takeCut pins.txReady with emission := none, pollReply := none } }

/-- One rising edge of `clk` (R91, R95). Before the first INIT the state is unspecified (10_state.md R40): an edge
that asks for anything but INIT is refused, a quiet one changes nothing of the block (log 10). -/
def clockEdge (pins : PortPins) (s : State) : Answer :=
  if pins.init then .next (s.initEdge pins)
  else
    match s.ds with
    | none => if pins.quiet then .next s else .refused .beforeInit
    | some d =>
      let r := d.edge s.params pins
      .next { s with ds := some r.1, port := { s.port.encoderEdge pins with pollReply := r.2 } }

/-- The output ports (R90, R94). -/
structure PortOutputs where
  pollDone : Bool
  /-- `poll_avail`, valid while `poll_done` is high. -/
  pollAvail : Option Bool
  code : Word
  codeBytes : List Byte
  width : Byte
  sendReady : Bool
  txValid : Bool
  /-- `tx_data`, a byte to take while `tx_valid` is high. -/
  txData : Option Byte
deriving DecidableEq, Repr

/-- The outputs in a state; before the first INIT they are unspecified (10_state.md R40). -/
def Port.outputs (s : State) : Option PortOutputs :=
  s.ds.map fun d =>
    { pollDone := s.port.pollReply.isSome
      pollAvail := s.port.pollReply
      code := d.decodedCode
      codeBytes := [wordByte d.decodedCode 3, wordByte d.decodedCode 2, wordByte d.decodedCode 1,
        wordByte d.decodedCode 0]
      width := d.decodedWidth.toByte
      sendReady := !s.port.busy
      txValid := s.port.busy
      txData := s.port.txData }

end Sys2Proof.Machine
end

