-- ==== Sys2Proof/Machine/Fetch.lean ====
section
/-! DEFINITION. How the next input reaches the block. The block fetches no instructions (20_memory.md R62): its run is
a finite or infinite sequence of events the environment gives (R52). The inputs placed in State come first, then those
of `Config.environment` (log 2). -/

namespace Sys2Proof.Machine

/-- One event: its word is decoded, a reserved word is refused in every state (60_exceptions.md R175), and the event
runs at the time `now` (30_encoding.md R69). -/
def runEvent (w : EventWord) (now : Time) (s : State) : Answer :=
  match decode w with
  | .error why => .refused (.reservedEvent why)
  | .ok i => exec i (s.atTime now)

/-- One input: an event, or a rising edge of `clk`. -/
def runInput (x : Input) (s : State) : Answer :=
  match x with
  | .event w now => runEvent w now s
  | .cycle pins => clockEdge pins (s.atTime pins.nowMs)

/-- The input that takes effect next, if the environment gives one: the oldest placed one, or, with none placed, the
one of the environment's next turn. -/
def State.nextInput (s : State) : Option Input :=
  match s.inputs with
  | x :: _ => some x
  | [] => Config.environment s.drawn

/-- That input has been taken: the placed inputs after it are left, or the environment has had its turn. -/
def State.dropInput (s : State) : State :=
  match s.inputs with
  | _ :: rest => { s with inputs := rest }
  | [] => { s with drawn := s.drawn + 1 }

/-- The next input takes effect. Where the environment gives none nothing happens: "Its state changes only in atomic
events" (00_scope.md R10), and the block never acts by itself (70_reset_and_hazards.md R204). -/
def runNextInput (s : State) : Answer :=
  match s.nextInput with
  | some x => runInput x s.dropInput
  | none => .next s.dropInput

/-- The environment gives the block the event `w` next, at the clock's present value. -/
def State.offerWord (s : State) (w : EventWord) : State :=
  { s with inputs := .event w s.now :: s.inputs }

end Sys2Proof.Machine
end

