-- ==== Sys2Proof/Machine/Step.lean ====
section
/-! DEFINITION. One step of the machine: the next input takes effect (Machine/Fetch.lean). -/

namespace Sys2Proof.Machine

/-- One step: the next input, an event (20_memory.md R52) or a port-level clock edge (30_encoding.md R91). -/
def step (s : State) : Host.Outcome State Fault Refusal := runNextInput s

/-- `s` with the table word offered as the very next event, at the clock's present value (log 2). -/
def State.withFetchWord (s : State) (nbits w : Nat) : State := s.offerWord (tableWord nbits w)

end Sys2Proof.Machine
end

