-- ==== Sys2Proof/Machine/Agents.lean ====
section
/-! DEFINITION. The agents that issue events (20_memory.md R64) and the interleavings of their sequences that the
model admits (R55, R56, R57, 60_exceptions.md R178). State's `inputs` holds the interleaving that the environment
chose. -/

namespace Sys2Proof.Machine

/-- The event sources of R64; the transport issues no event. -/
inductive Agent where
  | line0
  | line1
  | poller
deriving DecidableEq, Repr

/-- Which agent issues an event (R64). -/
def agentOf : Instr → Agent
  | .pulseD0 => .line0
  | .pulseD1 => .line1
  | .init => .poller
  | .poll => .poller
  | .getCode => .poller
  | .getCodeBytes => .poller
  | .getWidth => .poller
  | .send _ => .poller

/-- An event with its `now` value (00_scope.md R10). -/
structure TimedEvent where
  instr : Instr
  now : Time
deriving DecidableEq, Repr

/-- The event as an input: its event word and its `now` (30_encoding.md R66, R69). -/
def TimedEvent.toInput (e : TimedEvent) : Input := .event (encode e.instr) e.now

/-- The events of one agent in a run, in order. -/
def eventsOf (a : Agent) (run : List TimedEvent) : List TimedEvent :=
  run.filter fun e => agentOf e.instr == a

/-- `run` interleaves the three sources' sequences and keeps each source's own order (R55, R56, R64). A pulse that
falls into a POLL stands before or after it (R57); nothing is lost. -/
abbrev Admits (line0 line1 poller run : List TimedEvent) : Prop :=
  eventsOf .line0 run = line0 ∧ eventsOf .line1 run = line1 ∧ eventsOf .poller run = poller

end Sys2Proof.Machine
end

