-- ==== Sys2Proof/Machine/Trace.lean ====
section
/-! DEFINITION. The event-trace syntax and its pseudo-instructions WFRAME and SENDREC (30_encoding.md R85 to R89). The
syntax is notation: the block never sees it. A trace expands to events, and events assemble to words (R86). -/

namespace Sys2Proof.Machine

/-- The pulse that carries a frame bit (30_encoding.md R71, R87). -/
def pulseOfBit (b : Bool) : Instr := if b then .pulseD1 else .pulseD0

/-- Pulses with their times, in order. -/
def pulseTrain (ps : List (Bool × Time)) : List TimedEvent := ps.map fun p => ⟨pulseOfBit p.1, p.2⟩

/-- `WFRAME bits @t0, +dt` (R87): one pulse per bit, first pulse first, `dt` apart, modulo 2^32. -/
def wframe : List Bool → Time → Time → List TimedEvent
  | [], _, _ => []
  | b :: bits, t, dt => ⟨pulseOfBit b, t⟩ :: wframe bits (t + dt) dt

/-- The payload of `SENDREC dev, counter, code` (R88, 20_memory.md R46): the counter's high byte first, the code's most
significant byte first (D18). -/
def sendrecPayload (dev : Byte) (counter : BitVec 16) (code : Word) : FramePayload where
  deviceId := dev
  counterHigh := counter.extractLsb' 8 8
  counterLow := counter.extractLsb' 0 8
  cred3 := wordByte code 3
  cred2 := wordByte code 2
  cred1 := wordByte code 1
  cred0 := wordByte code 0

/-- One line of a trace (R85 to R88). -/
inductive TraceLine where
  | event (i : Instr) (now : Time)
  | wframe (bits : List Bool) (t0 dt : Time)
  | sendrec (dev : Byte) (counter : BitVec 16) (code : Word) (now : Time)
deriving DecidableEq, Repr

/-- The events a line stands for. -/
def TraceLine.expand : TraceLine → List TimedEvent
  | .event i now => [⟨i, now⟩]
  | .wframe bits t0 dt => Sys2Proof.Machine.wframe bits t0 dt
  | .sendrec dev counter code now => [⟨.send (sendrecPayload dev counter code), now⟩]

/-- A straight-line trace (R89) as inputs of the block. -/
def assembleTrace (lines : List TraceLine) : List Input :=
  (lines.flatMap TraceLine.expand).map TimedEvent.toInput

/-! ## The text of a trace (R85) -/

/-- What separates the parts of a line; a comma counts as a blank (DESIGN CHOICE, log 19, safe). -/
def isSeparator (c : Char) : Bool := c == ' ' || c == '\t' || c == '\r' || c == ','

/-- A line up to its comment, which a semicolon starts (R85). -/
def withoutComment (line : List Char) : List Char := line.takeWhile (· != ';')

/-- Cuts at the characters that `sep` holds of; the pieces may be empty. -/
def cutAt (sep : Char → Bool) (cs : List Char) : List (List Char) :=
  cs.foldr (fun c pieces =>
    if sep c then [] :: pieces
    else
      match pieces with
      | [] => [[c]]
      | p :: ps => (c :: p) :: ps) [[]]

/-- The parts of a line. -/
def tokens (line : List Char) : List (List Char) :=
  (cutAt isSeparator (withoutComment line)).filter (!·.isEmpty)

/-- The value of a digit, decimal or hexadecimal. -/
def digitValue (c : Char) : Option Nat :=
  if '0' ≤ c ∧ c ≤ '9' then some (c.toNat - '0'.toNat)
  else if 'a' ≤ c ∧ c ≤ 'f' then some (c.toNat - 'a'.toNat + 10)
  else if 'A' ≤ c ∧ c ≤ 'F' then some (c.toNat - 'A'.toNat + 10)
  else none

/-- A non-empty run of digits in the given base. -/
def digitsValue (base : Nat) (cs : List Char) : Option Nat :=
  if cs.isEmpty then none
  else cs.foldl (fun acc c =>
    match acc, digitValue c with
    | some n, some d => if d < base then some (base * n + d) else none
    | _, _ => none) (some 0)

/-- A number, decimal or with `0x` hexadecimal (R85), that fits in `n` bits. -/
def parseNumber (n : Nat) (cs : List Char) : Option (BitVec n) :=
  let v := match cs with
    | '0' :: 'x' :: ds => digitsValue 16 ds
    | ds => digitsValue 10 ds
  v.bind fun k => if k < 2 ^ n then some (BitVec.ofNat n k) else none

/-- A number behind a mark: `@now` or `+dt`. -/
def parseMarked (mark : Char) : List Char → Option Time
  | c :: cs => if c == mark then parseNumber 32 cs else none
  | [] => none

/-- The bits of WFRAME (R87). -/
def parseBits (cs : List Char) : Option (List Bool) :=
  cs.mapM fun c => if c == '1' then some true else if c == '0' then some false else none

/-- The mnemonics without operands (R86). -/
def plainMnemonics : List (List Char × Instr) :=
  [Instr.init, .pulseD0, .pulseD1, .poll, .getCode, .getCodeBytes, .getWidth].map
    fun i => (i.mnemonic.toList, i)

/-- The events that read `now` (30_encoding.md R69). -/
def readsNow : Instr → Bool
  | .pulseD0 => true
  | .pulseD1 => true
  | .poll => true
  | .init => false
  | .getCode => false
  | .getCodeBytes => false
  | .getWidth => false
  | .send _ => false

/-- An event's `@now`; an event that reads no time may leave it out (R85 says so of the getters, R88's example of
SENDREC), and then it stands at 0 (DESIGN CHOICE, log 19, safe: the event does not read it). -/
def parseNow (needed : Bool) : List (List Char) → Option Time
  | [t] => parseMarked '@' t
  | [] => if needed then none else some 0
  | _ => none

/-- One line: `some []` for an empty or comment line, `none` for text that is no line of the syntax. -/
def parseLine (line : List Char) : Option (List TraceLine) :=
  match tokens line with
  | [] => some []
  | m :: args =>
    if m == "SEND".toList then do
      let bytes ← (args.take Config.payloadLen).mapM (parseNumber 8)
      let p ← FramePayload.ofList? bytes
      let t ← parseNow false (args.drop Config.payloadLen)
      some [.event (.send p) t]
    else if m == "SENDREC".toList then
      match args with
      | dev :: counter :: code :: rest => do
        let d ← parseNumber 8 dev
        let n ← parseNumber 16 counter
        let v ← parseNumber 32 code
        let t ← parseNow false rest
        some [.sendrec d n v t]
      | _ => none
    else if m == "WFRAME".toList then
      match args with
      | [bits, t0, dt] => do
        let bs ← parseBits bits
        let t ← parseMarked '@' t0
        let d ← parseMarked '+' dt
        some [.wframe bs t d]
      | _ => none
    else
      match plainMnemonics.find? (fun e => e.1 == m) with
      | some e => (parseNow (readsNow e.2) args).map fun t => [.event e.2 t]
      | none => none

/-- A whole trace, one event or pseudo-instruction a line (R85, R89). -/
def parseTrace (text : List Char) : Option (List TraceLine) :=
  ((cutAt (· == '\n') text).mapM parseLine).map List.flatten

end Sys2Proof.Machine
end

