-- ==== Sys2Proof/Machine/Wiegand.lean ====
section
/-! DEFINITION. The Wiegand frame formats W26 and W34 as lists of received bits, first pulse first (30_encoding.md R71
to R78). The block computes on its accumulators (Machine/Ops.lean); these definitions say what a frame means, and
claims compare the two. -/

namespace Sys2Proof.Machine

/-- `F`, the value of a frame whose bits arrived in this order (R71): the first is the most significant (R72). -/
def frameValue (bits : List Bool) : Nat :=
  bits.foldl (fun f b => 2 * f + b.toNat) 0

/-- The bits between the leading and the trailing parity bit (R73, R74). -/
def interiorBits (bits : List Bool) : List Bool := (bits.drop 1).dropLast

/-- Even parity of a frame's first half, leading bit included, and odd parity of its second half, trailing bit
included, for halves of `half` bits (R75 with 17, R76 with 13; D9, D10, log 11). -/
def halvesParityOk (half : Nat) (bits : List Bool) : Bool :=
  (bits.take half).count true % 2 == 0 && (bits.drop half).count true % 2 == 1

/-- The parity rule of a 34-bit frame (R75): 17 bits a half. -/
def w34ParityOk (bits : List Bool) : Bool := halvesParityOk 17 bits

/-- The parity rule of a 26-bit frame (R76): 13 bits a half. -/
def w26ParityOk (bits : List Bool) : Bool := halvesParityOk 13 bits

end Sys2Proof.Machine
end

