-- ==== Sys2Proof/Safety.lean ====
section
/-! DEFINITION. What claims are stated in: the invariant of the machine, runs of the machine, and the relations between
two states that say what cannot be observed. -/

namespace Sys2Proof.Machine

/-- The decoder's registers are consistent: `low_bits[0] = 0` (10_state.md R29), a 26-bit credential has 24 bits
(R25), and there is no credential while the width is UNKNOWN (R34, R39). -/
abbrev DecoderState.WF (d : DecoderState) : Prop :=
  d.lowBits.getLsbD 0 = false ∧
  (d.decodedWidth = .w26 → d.decodedCode.toNat < 2 ^ 24) ∧
  (d.decodedWidth = .unknown → d.decodedCode = 0)

/-- `tx` is a sequence of whole frames (43_frame_encoder.md R146: the frames of two SENDs never interleave). -/
def WholeFrames (tx : List Byte) : Prop :=
  ∃ ps : List FramePayload, tx = ps.flatMap frame

/-- While `busy`, `buf` is a frame, `idx` points into it, and the bytes before `idx` are the last ones the transport
took (30_encoding.md R94, R95). -/
def PortState.WF (p : PortState) : Prop :=
  ∀ e, p.emission = some e →
    (∃ payload, e.buf = frame payload) ∧ e.idx < e.buf.length ∧
    ∃ earlier, p.taken = earlier ++ e.buf.take e.idx

/-- The invariant of the machine. -/
structure State.Inv (s : State) : Prop where
  decoder : ∀ d, s.ds = some d → d.WF
  wire : WholeFrames s.tx
  port : s.port.WF

/-- The accumulators are as INIT and every resolution leave them (41_resolution.md R111). -/
abbrev DecoderState.Cleared (d : DecoderState) : Prop :=
  d.bitCount = 0 ∧ d.lowBits = 0 ∧ d.highBits = 0

/-- `n` steps of the machine. -/
def runSteps : Nat → State → Answer
  | 0, s => .next s
  | n + 1, s =>
    match step s with
    | .next t => runSteps n t
    | .fault r => .fault r
    | .refused r => .refused r

/-- The environment gives the machine exactly these inputs, and it runs one step for each. -/
def runInputs (xs : List Input) (s : State) : Answer := runSteps xs.length { s with inputs := xs }

/-- The machine runs these events from a state. -/
def runEvents (es : List TimedEvent) (s : State) : Answer := runInputs (es.map TimedEvent.toInput) s

/-- The event's word, both ways (30_encoding.md R67). -/
def EncodedAs (i : Instr) (w : EventWord) : Prop := encode i = w ∧ decode w = .ok i

/-- The event is refused in every state that holds no decoder (10_state.md R40). -/
def RefusedBeforeInit (i : Instr) : Prop := ∀ s : State, s.ds = none → exec i s = .refused .beforeInit

/-- `(now - last_pulse_time) mod 2^32` in exact arithmetic (41_resolution.md R112). -/
def silence (now last : Time) : Nat := (now.toNat + 2 ^ 32 - last.toNat) % 2 ^ 32

/-- The decoder with bit `k` of a received 34-bit frame inverted: by 40_pulse.md R103, `F[30:0]` stand in
`low_bits[31:1]` and `F[33:31]` in `high_bits[2:0]`. -/
def DecoderState.flipFrameBit (k : Nat) (d : DecoderState) : DecoderState :=
  if k < 31 then { d with lowBits := d.lowBits ^^^ BitVec.twoPow 32 (k + 1) }
  else { d with highBits := d.highBits ^^^ BitVec.twoPow 32 (k - 31) }

/-- Two states that differ at most in `last_pulse_time`, and in it only while the accumulators are cleared
(10_state.md R38). -/
def SameUpToIdleTime (s t : State) : Prop :=
  ∃ x, t = { s with ds := x } ∧
    match s.ds, x with
    | none, none => True
    | some d, some e =>
      e = { d with lastPulseTime := e.lastPulseTime } ∧ (d.lastPulseTime = e.lastPulseTime ∨ d.Cleared)
    | _, _ => False

/-- The transaction-level events of one clock edge, in the order of 30_encoding.md R91, and the SEND of an accepted
request (R95). -/
def eventsOfEdge (pins : PortPins) (busy : Bool) : List TimedEvent :=
  if pins.init then [⟨.init, pins.nowMs⟩]
  else
    (if pins.pollReq then [⟨.poll, pins.nowMs⟩] else []) ++
    (if pins.d0Pulse then [⟨.pulseD0, pins.nowMs⟩] else []) ++
    (if pins.d1Pulse then [⟨.pulseD1, pins.nowMs⟩] else []) ++
    (if pins.sendReq && !busy then [⟨.send (payloadOfOperand pins.sendPayload), pins.nowMs⟩] else [])

/-- The transaction-level view of a port-level state: what the transport has taken and will take of the frame being
emitted is what SEND has emitted (30_encoding.md R95). -/
def State.atTransactionLevel (s : State) : State :=
  { s with tx := s.port.taken ++ s.port.untaken }

end Sys2Proof.Machine
end

