-- ==== Sys2Proof/Certificates/Slice0/Obligations.lean ====
section
/-! DEFINITION. The statements about the machine, for the provers. Each docstring names the rule of spec/ it formalises;
where a clause rests on one of the spec's own decisions (D<n> of 92_eei_decisions.md) or on a log entry of this model,
it says so. A next state is written out whole, so that every field not named in it is unchanged: the equation is the
result, the completion and the frame at once. -/

open Sys2Proof Sys2Proof.Machine

/-! ## Reset and INIT -/

/-- 10_state.md R39, 70_reset_and_hazards.md R200, R201: the reset state is what INIT leaves at power-up. The values
are the spec's decision D6; that State.reset is this state, in the base configuration, is log 1 and log 4. -/
def Obligations.ResetIsInitAtPowerUp : Prop :=
  (∀ p : Params, exec .init (State.powerOn p) = .next (State.resetWith p) ∧
    (State.powerOn p).ds = none ∧
    (State.resetWith p).ds = some
      { bitCount := 0, lowBits := 0, highBits := 0, lastPulseTime := 0, decodedCode := 0, decodedWidth := .unknown } ∧
    (State.resetWith p).port.busy = false ∧ (State.resetWith p).tx = []) ∧
  core.reset = State.resetWith { validateParity := false, parity26 := false }

/-- 44_initialize.md R160, R162: INIT is accepted in every state; it writes the reset values (the spec's decision D6),
keeps `tx` and makes the encoder idle. That the INIT event also drops a pending POLL reply of the port level is log 8. -/
def Obligations.InitFromEveryState : Prop :=
  EncodedAs .init 0x0000000000000001 ∧
  ∀ s : State, exec .init s = .next { s with
    ds := some
      { bitCount := 0, lowBits := 0, highBits := 0, lastPulseTime := 0, decodedCode := 0, decodedWidth := .unknown }
    port := { s.port with emission := none, pollReply := none }
    result := .nothing }

/-- 10_state.md R40 (the spec's decision D7), 60_exceptions.md R175: before the first INIT every event but INIT is
refused, by the meaning and by the step. -/
def Obligations.OnlyInitRunsBeforeInit : Prop :=
  ∀ (i : Instr) (s : State), s.ds = none → i ≠ .init →
    exec i s = .refused .beforeInit ∧
    ∀ (now : Time) (rest : List Input), s.inputs = .event (encode i) now :: rest → step s = .refused .beforeInit

/-! ## Pulses -/

/-- 40_pulse.md R100, R106: PULSE_D0. The count is modulo 2^32 by the spec's decision D5, the order of the carry is its
decision D13. -/
def Obligations.PulseD0Step : Prop :=
  EncodedAs .pulseD0 0x0000000000000002 ∧ RefusedBeforeInit .pulseD0 ∧
  ∀ (s : State) (d : DecoderState), s.ds = some d → exec .pulseD0 s = .next { s with
    ds := some { d with
      bitCount := d.bitCount + 1
      highBits :=
        if 31 < (d.bitCount.toNat + 1) % 2 ^ 32 then
          BitVec.ofNat 32 (2 * d.highBits.toNat + (d.lowBits.getLsbD 31).toNat)
        else d.highBits
      lowBits := BitVec.ofNat 32 (2 * d.lowBits.toNat)
      lastPulseTime := s.now }
    result := .nothing }

/-- 40_pulse.md R101, R106: PULSE_D1; decisions as for PULSE_D0. -/
def Obligations.PulseD1Step : Prop :=
  EncodedAs .pulseD1 0x0000000000000003 ∧ RefusedBeforeInit .pulseD1 ∧
  ∀ (s : State) (d : DecoderState), s.ds = some d → exec .pulseD1 s = .next { s with
    ds := some { d with
      bitCount := d.bitCount + 1
      highBits :=
        if 31 < (d.bitCount.toNat + 1) % 2 ^ 32 then
          BitVec.ofNat 32 (2 * d.highBits.toNat + (d.lowBits.getLsbD 31).toNat)
        else d.highBits
      lowBits := BitVec.ofNat 32 (2 * d.lowBits.toNat) ||| 2
      lastPulseTime := s.now }
    result := .nothing }

/-- 40_pulse.md R102: from cleared accumulators, `n < 2^32` pulses leave the count `n` and, in the pair
`high_bits:low_bits`, twice the frame value modulo 2^64; nothing else but the time of the last pulse changes. -/
def Obligations.PulsesAccumulateTheFrameValue : Prop :=
  ∀ (s : State) (d : DecoderState) (ps : List (Bool × Time)),
    s.ds = some d → d.Cleared → ps.length < 2 ^ 32 →
    ∃ (t : State) (e : DecoderState), runEvents (pulseTrain ps) s = .next t ∧ t.ds = some e ∧
      e.bitCount.toNat = ps.length ∧
      e.lowBits.toNat = 2 * frameValue (ps.map Prod.fst) % 2 ^ 32 ∧
      e.highBits.toNat = frameValue (ps.map Prod.fst) / 2 ^ 31 % 2 ^ 32 ∧
      (e.highBits ++ e.lowBits).toNat = 2 * frameValue (ps.map Prod.fst) % 2 ^ 64 ∧
      e.lastPulseTime = (ps.map Prod.snd).getLastD d.lastPulseTime ∧
      e.decodedCode = d.decodedCode ∧ e.decodedWidth = d.decodedWidth ∧
      t.tx = s.tx ∧ t.port = s.port ∧ t.params = s.params

/-- 40_pulse.md R104 (the count wraps by the spec's decision D5): from `bit_count = 0xFFFFFFFF`, the pulse that wraps
the count and the next 31 carry nothing into `high_bits`. -/
def Obligations.CountWrapSkipsTheCarry : Prop :=
  ∀ (s : State) (d : DecoderState) (ps : List (Bool × Time)),
    s.ds = some d → d.bitCount = 0xFFFFFFFF → 1 ≤ ps.length → ps.length ≤ 32 →
    ∃ (t : State) (e : DecoderState), runEvents (pulseTrain ps) s = .next t ∧ t.ds = some e ∧
      e.bitCount.toNat = ps.length - 1 ∧ e.highBits = d.highBits

/-- 70_reset_and_hazards.md R213, 20_memory.md R56: two simultaneous pulses are both counted, in either order, and the
two newest bits come out in that order. -/
def Obligations.SimultaneousPulsesInEitherOrder : Prop :=
  ∀ (s : State) (d : DecoderState) (now : Time), s.ds = some d → d.WF →
    ∃ (t u : State) (e f : DecoderState),
      runEvents [⟨.pulseD0, now⟩, ⟨.pulseD1, now⟩] s = .next t ∧ t.ds = some e ∧
      runEvents [⟨.pulseD1, now⟩, ⟨.pulseD0, now⟩] s = .next u ∧ u.ds = some f ∧
      e.bitCount = d.bitCount + 2 ∧ f.bitCount = d.bitCount + 2 ∧
      e.lowBits.extractLsb' 1 2 = (0b01 : BitVec 2) ∧ f.lowBits.extractLsb' 1 2 = (0b10 : BitVec 2)

/-- 20_memory.md R55, R56, R57: whichever admitted interleaving of the two lines' pulses runs, no pulse is lost. -/
def Obligations.EveryInterleavingCountsEveryPulse : Prop :=
  ∀ (s : State) (d : DecoderState) (line0 line1 run : List TimedEvent),
    s.ds = some d → Admits line0 line1 [] run →
    ∃ (t : State) (e : DecoderState), runEvents run s = .next t ∧ t.ds = some e ∧
      e.bitCount = d.bitCount + BitVec.ofNat 32 (line0.length + line1.length)

/-! ## POLL -/

/-- 41_resolution.md R111, R112, R122: the silence test. At most 25 ms: `available` is false and nothing of the block is
written. More: every outcome clears the accumulators. The subtraction is modulo 2^32 by the spec's decision D4. -/
def Obligations.PollSilenceTest : Prop :=
  EncodedAs .poll 0x0000000000000004 ∧ RefusedBeforeInit .poll ∧
  ∀ (s : State) (d : DecoderState), s.ds = some d →
    (silence s.now d.lastPulseTime ≤ 25 → exec .poll s = .next { s with result := .available false }) ∧
    (25 < silence s.now d.lastPulseTime →
      ∃ (t : State) (e : DecoderState), exec .poll s = .next t ∧ t.ds = some e ∧ e.Cleared)

/-- 41_resolution.md R113: a 26-bit frame whose parity is not checked writes its 24 data bits, which stand in
`low_bits[25:2]`, zero-extended. That it is accepted with `VALIDATE_PARITY` true is the spec's decision D12 (log 15). -/
def Obligations.PollDecodes26 : Prop :=
  ∀ (s : State) (d : DecoderState), s.ds = some d → 25 < silence s.now d.lastPulseTime → d.bitCount = 26 →
    (s.params.validateParity = false ∨ s.params.parity26 = false) →
    exec .poll s = .next { s with
      ds := some { d with
        bitCount := 0, lowBits := 0, highBits := 0
        decodedCode := (d.lowBits.extractLsb' 2 24).setWidth 32
        decodedWidth := .w26 }
      result := .available true }

/-- 41_resolution.md R114: a 34-bit frame whose parity is not checked writes its 32 interior bits, the high 2 from
`high_bits[1:0]` and the low 30 from `low_bits[31:2]`. -/
def Obligations.PollDecodes34 : Prop :=
  ∀ (s : State) (d : DecoderState), s.ds = some d → 25 < silence s.now d.lastPulseTime → d.bitCount = 34 →
    s.params.validateParity = false →
    exec .poll s = .next { s with
      ds := some { d with
        bitCount := 0, lowBits := 0, highBits := 0
        decodedCode := d.highBits.extractLsb' 0 2 ++ d.lowBits.extractLsb' 2 30
        decodedWidth := .w34 }
      result := .available true }

/-- 41_resolution.md R118, R119: with both parity parameters true, a 26-bit frame is accepted exactly when its first 13
bits have even and its last 13 odd parity. Polarity and groups are the spec's decisions D9, D10 (log 11); that a 26-bit
frame is accepted at all where parity is validated is its decision D12 (log 15), and that a rejected one leaves
`last_pulse_time` alone its decision D16 (log 21). -/
def Obligations.PollChecksParity26 : Prop :=
  ∀ (s : State) (d : DecoderState), s.ds = some d → 25 < silence s.now d.lastPulseTime → d.bitCount = 26 →
    s.params.validateParity = true → s.params.parity26 = true →
    exec .poll s = .next
      (if popcount (d.lowBits.extractLsb' 14 13) % 2 = 0 ∧ popcount (d.lowBits.extractLsb' 1 13) % 2 = 1 then
        { s with
          ds := some { d with
            bitCount := 0, lowBits := 0, highBits := 0
            decodedCode := (d.lowBits.extractLsb' 2 24).setWidth 32
            decodedWidth := .w26 }
          result := .available true }
      else
        { s with
          ds := some { d with bitCount := 0, lowBits := 0, highBits := 0 }
          result := .available false })

/-- 41_resolution.md R117, R119: with parity validation, a 34-bit frame is accepted exactly when its first 17 bits have
even and its last 17 odd parity. Polarity and groups are the spec's decisions D9, D10 (log 11), and that a rejected
frame leaves `last_pulse_time` alone is its decision D16 (log 21). -/
def Obligations.PollChecksParity34 : Prop :=
  ∀ (s : State) (d : DecoderState), s.ds = some d → 25 < silence s.now d.lastPulseTime → d.bitCount = 34 →
    s.params.validateParity = true →
    exec .poll s = .next
      (if (popcount (d.highBits.extractLsb' 0 3) + popcount (d.lowBits.extractLsb' 18 14)) % 2 = 0 ∧
          popcount (d.lowBits.extractLsb' 1 17) % 2 = 1 then
        { s with
          ds := some { d with
            bitCount := 0, lowBits := 0, highBits := 0
            decodedCode := d.highBits.extractLsb' 0 2 ++ d.lowBits.extractLsb' 2 30
            decodedWidth := .w34 }
          result := .available true }
      else
        { s with
          ds := some { d with bitCount := 0, lowBits := 0, highBits := 0 }
          result := .available false })

/-- 41_resolution.md R115: every other count, 0 included, is noise: no credential update, and `last_pulse_time` is
advanced. -/
def Obligations.PollDiscardsNoise : Prop :=
  ∀ (s : State) (d : DecoderState), s.ds = some d → 25 < silence s.now d.lastPulseTime →
    d.bitCount ≠ 26 → d.bitCount ≠ 34 →
    exec .poll s = .next { s with
      ds := some { d with bitCount := 0, lowBits := 0, highBits := 0, lastPulseTime := s.now }
      result := .available false }

/-- 41_resolution.md R121: after a success, a POLL with no pulse in between is not available and keeps the credential,
whatever the time. -/
def Obligations.NoSecondAvailableForOneFrame : Prop :=
  ∀ (s t : State) (now : Time), exec .poll s = .next t → t.result = .available true →
    ∃ (u : State) (d e : DecoderState), exec .poll { t with now := now } = .next u ∧ u.result = .available false ∧
      t.ds = some d ∧ u.ds = some e ∧
      e.decodedCode = d.decodedCode ∧ e.decodedWidth = d.decodedWidth ∧ e.Cleared

/-- 60_exceptions.md R172, 00_scope.md R17 ("to detect single-bit errors"): where parity is validated and a 34-bit frame
is accepted, the same frame with any ONE of its 34 bits inverted is rejected, and the credential is kept. It does not
depend on the polarity of D9, but it rests on the groups of D10 (log 11), and that the rejection leaves
`last_pulse_time` alone is D16 (log 21). -/
def Obligations.SingleBitErrorsOf34AreRejected : Prop :=
  ∀ (s t : State) (d : DecoderState) (k : Nat),
    s.ds = some d → d.bitCount = 34 → s.params.validateParity = true → k < 34 →
    exec .poll s = .next t → t.result = .available true →
    exec .poll { s with ds := some (d.flipFrameBit k) } = .next { s with
      ds := some { d with bitCount := 0, lowBits := 0, highBits := 0 }
      result := .available false }

/-- 41_resolution.md R120, 30_encoding.md R73: a received 26-bit frame followed by more than 25 ms of silence yields its
24 interior bits, the first received the most significant (parity not checked, or the rule of D9, D10, log 11, met). That
the frame decodes with `VALIDATE_PARITY` true is the spec's decision D12 (log 15). -/
def Obligations.Received26BitFrameIsDecoded : Prop :=
  ∀ (s : State) (d : DecoderState) (ps : List (Bool × Time)) (last now : Time),
    s.ds = some d → d.Cleared → ps.length = 26 → (ps.map Prod.snd).getLast? = some last → 25 < silence now last →
    (s.params.validateParity = true → s.params.parity26 = true → w26ParityOk (ps.map Prod.fst) = true) →
    ∃ (t : State) (e : DecoderState),
      runEvents (pulseTrain ps ++ [⟨.poll, now⟩]) s = .next t ∧ t.result = .available true ∧ t.ds = some e ∧
      e.decodedCode.toNat = frameValue (interiorBits (ps.map Prod.fst)) ∧ e.decodedWidth = .w26 ∧ e.Cleared

/-- 41_resolution.md R120, 30_encoding.md R74: a received 34-bit frame followed by more than 25 ms of silence yields its
32 interior bits (parity not checked, or the rule of D9, D10, log 11, met). -/
def Obligations.Received34BitFrameIsDecoded : Prop :=
  ∀ (s : State) (d : DecoderState) (ps : List (Bool × Time)) (last now : Time),
    s.ds = some d → d.Cleared → ps.length = 34 → (ps.map Prod.snd).getLast? = some last → 25 < silence now last →
    (s.params.validateParity = true → w34ParityOk (ps.map Prod.fst) = true) →
    ∃ (t : State) (e : DecoderState),
      runEvents (pulseTrain ps ++ [⟨.poll, now⟩]) s = .next t ∧ t.result = .available true ∧ t.ds = some e ∧
      e.decodedCode.toNat = frameValue (interiorBits (ps.map Prod.fst)) ∧ e.decodedWidth = .w34 ∧ e.Cleared

/-- 30_encoding.md R77, 70_reset_and_hazards.md R205, R206: a frame of any other width below 2^32 is discarded with no
signal, merged and split frames among them. -/
def Obligations.OtherWidthsAreDiscarded : Prop :=
  ∀ (s : State) (d : DecoderState) (ps : List (Bool × Time)) (now : Time),
    s.ds = some d → d.Cleared → ps.length < 2 ^ 32 → ps.length ≠ 26 → ps.length ≠ 34 →
    25 < silence now ((ps.map Prod.snd).getLastD d.lastPulseTime) →
    ∃ (t : State) (e : DecoderState),
      runEvents (pulseTrain ps ++ [⟨.poll, now⟩]) s = .next t ∧ t.result = .available false ∧ t.ds = some e ∧
      e.decodedCode = d.decodedCode ∧ e.decodedWidth = d.decodedWidth ∧ e.Cleared ∧ e.lastPulseTime = now

/-- 41_resolution.md R112, 70_reset_and_hazards.md R208 (the 32-bit clock is the spec's decision D4): POLL sees the true
gap since the last pulse modulo 2^32, whatever the wraps of the clock: exact below 2^32, PENDING again after
`2^32 m + x` with `x ≤ 25`. -/
def Obligations.PollSeesTheTrueGapModulo2To32 : Prop :=
  ∀ (s : State) (d : DecoderState) (pulseAt gap : Nat),
    s.ds = some d → d.lastPulseTime = BitVec.ofNat 32 pulseAt → s.now = BitVec.ofNat 32 (pulseAt + gap) →
    (gap % 2 ^ 32 ≤ 25 → exec .poll s = .next { s with result := .available false }) ∧
    (25 < gap % 2 ^ 32 →
      ∃ (t : State) (e : DecoderState), exec .poll s = .next t ∧ t.ds = some e ∧ e.Cleared)

/-- 10_state.md R38: while the accumulators are cleared, `last_pulse_time` cannot be observed: two states that differ
only in it answer every input alike, result and outputs included, and stay so related. -/
def Obligations.IdleTimeIsUnobservable : Prop :=
  ∀ s t s' : State, SameUpToIdleTime s t → step s = .next s' →
    ∃ t' : State, step t = .next t' ∧ SameUpToIdleTime s' t'

/-! ## Accessors and who writes what -/

/-- 42_accessors.md R130: GET_CODE. The 0 it returns before the first success is the reset value of the spec's decision
D6 (log 5); the statement holds for whatever `decoded_code` holds. -/
def Obligations.GetCodeReturnsTheCredential : Prop :=
  EncodedAs .getCode 0x0000000000000005 ∧ RefusedBeforeInit .getCode ∧
  ∀ (s : State) (d : DecoderState), s.ds = some d → exec .getCode s = .next { s with result := .code d.decodedCode }

/-- 42_accessors.md R131, 20_memory.md R45: GET_CODE_BYTES returns four bytes that, the first most significant, are the
credential. -/
def Obligations.GetCodeBytesAreBigEndian : Prop :=
  EncodedAs .getCodeBytes 0x0000000000000006 ∧ RefusedBeforeInit .getCodeBytes ∧
  ∀ (s : State) (d : DecoderState), s.ds = some d →
    ∃ b0 b1 b2 b3 : Byte, exec .getCodeBytes s = .next { s with result := .codeBytes b0 b1 b2 b3 } ∧
      b0 ++ b1 ++ b2 ++ b3 = d.decodedCode

/-- 42_accessors.md R132: GET_WIDTH; 0 for UNKNOWN is the spec's decision D8 (log 14). -/
def Obligations.GetWidthReturnsTheWidth : Prop :=
  EncodedAs .getWidth 0x0000000000000007 ∧ RefusedBeforeInit .getWidth ∧
  ∀ (s : State) (d : DecoderState), s.ds = some d →
    ∃ v : Byte, exec .getWidth s = .next { s with result := .width v } ∧
      (d.decodedWidth = .unknown → v.toNat = 0) ∧ (d.decodedWidth = .w26 → v.toNat = 26) ∧
      (d.decodedWidth = .w34 → v.toNat = 34)

/-- 10_state.md R28: the credential and its width are written only by INIT and by a POLL that returns true. -/
def Obligations.OnlyInitAndSuccessWriteTheCredential : Prop :=
  ∀ (i : Instr) (s t : State) (d : DecoderState), s.ds = some d → exec i s = .next t →
    i = .init ∨ (i = .poll ∧ t.result = .available true) ∨
    ∃ e : DecoderState, t.ds = some e ∧ e.decodedCode = d.decodedCode ∧ e.decodedWidth = d.decodedWidth

/-- 10_state.md R27: the count and the accumulators are written only by the pulses, by POLL and INIT, which
clear them. -/
def Obligations.OnlyPulsesPollAndInitWriteTheAccumulators : Prop :=
  ∀ (i : Instr) (s t : State) (d : DecoderState), s.ds = some d → exec i s = .next t →
    ∃ e : DecoderState, t.ds = some e ∧
      (i = .pulseD0 ∨ i = .pulseD1 ∨ (i = .init ∧ e.Cleared) ∨ (i = .poll ∧ e.Cleared) ∨
        (i ≠ .init ∧ e.bitCount = d.bitCount ∧ e.lowBits = d.lowBits ∧ e.highBits = d.highBits))

/-- 30_encoding.md R69: every event comes with its `now`; only PULSE_D0, PULSE_D1 and POLL read it, and they do: every
other event answers the same at any time, each of the three has a state in which the time makes a difference, and a
pulse records it as its timestamp. -/
def Obligations.OnlyPulsesAndPollReadTheTime : Prop :=
  (∀ (i : Instr) (s : State) (now : Time) (rest : List Input), s.inputs = .event (encode i) now :: rest →
    step s = exec i { s with now := now, inputs := rest }) ∧
  (∀ (i : Instr) (s t : State) (now : Time), i ≠ .pulseD0 → i ≠ .pulseD1 → i ≠ .poll → exec i s = .next t →
    exec i { s with now := now } = .next { t with now := now }) ∧
  (∀ i : Instr, i = .pulseD0 ∨ i = .pulseD1 ∨ i = .poll →
    ∃ (s t u : State) (now : Time), exec i s = .next t ∧ exec i { s with now := now } = .next u ∧
      u ≠ { t with now := now }) ∧
  ∀ (i : Instr) (s : State) (d : DecoderState), i = .pulseD0 ∨ i = .pulseD1 → s.ds = some d →
    ∃ (t : State) (e : DecoderState), exec i s = .next t ∧ t.ds = some e ∧ e.lastPulseTime = s.now

/-- 42_accessors.md R133: however the getters, pulses, SENDs and POLLs that are not available follow one another, the
credential and its width stay. -/
def Obligations.CredentialPersistsUntilTheNextSuccess : Prop :=
  ∀ (es : List TimedEvent) (s t : State) (d : DecoderState), s.ds = some d → runEvents es s = .next t →
    (∀ e ∈ es, e.instr ≠ .init) →
    (∀ n u, 0 < n → n ≤ es.length → runSteps n { s with inputs := es.map TimedEvent.toInput } = .next u →
      u.result ≠ .available true) →
    ∃ e : DecoderState, t.ds = some e ∧ e.decodedCode = d.decodedCode ∧ e.decodedWidth = d.decodedWidth

/-- 00_scope.md R2, 43_frame_encoder.md R140: nothing reads what FE has emitted, neither SEND's bytes (`tx`) nor those
the transport has taken at the port level (`port.taken`, log 8): a step from a state with other such bytes differs in
them only. -/
def Obligations.DecoderNeverReadsTx : Prop :=
  ∀ (s s' : State) (xs ys : List Byte), step s = .next s' →
    ∃ xs' ys' : List Byte, step { s with tx := xs, port := { s.port with taken := ys } } =
      .next { s' with tx := xs', port := { s'.port with taken := ys' } }

/-! ## SEND -/

/-- 43_frame_encoder.md R141: `esc` on every byte, one level deep by the spec's decision D17 (log 23). Derived from it
(R149, R153): the second byte of a pair is never reserved, and in front of any text the receiver of R152 (log 24) takes
an escaped byte for that byte. -/
def Obligations.EscapeRule : Prop :=
  ∀ (b : Byte) (tail : List Byte),
    (b.toNat = 1 ∨ b.toNat = 4 ∨ b.toNat = 10 →
      escapeByte b = [10, BitVec.ofNat 8 (b.toNat + 20)] ∧ isReserved (BitVec.ofNat 8 (b.toNat + 20)) = false) ∧
    (¬(b.toNat = 1 ∨ b.toNat = 4 ∨ b.toNat = 10) → escapeByte b = [b]) ∧
    unescape (escapeByte b ++ tail) = (unescape tail).map (b :: ·)

/-- 43_frame_encoder.md R142 to R146: SEND appends `START`, the escaped payload in field order, the escaped checksum
and `STOP`; the checksum is the sum of the escaped body modulo 256. It runs for every payload (R147). That SEND is
refused before the first INIT is 10_state.md R40, by the spec's decision D7. -/
def Obligations.SendEmitsTheFrame : Prop :=
  (∀ p : FramePayload,
    EncodedAs (.send p) (p.deviceId ++ p.counterHigh ++ p.counterLow ++ p.cred3 ++ p.cred2 ++ p.cred1 ++ p.cred0 ++
      (0x08 : BitVec 8)) ∧
    RefusedBeforeInit (.send p)) ∧
  ∀ (p : FramePayload) (s : State) (d : DecoderState) (body : List Byte) (cs : Byte), s.ds = some d →
    body = escapeByte p.deviceId ++ escapeByte p.counterHigh ++ escapeByte p.counterLow ++ escapeByte p.cred3 ++
      escapeByte p.cred2 ++ escapeByte p.cred1 ++ escapeByte p.cred0 →
    cs.toNat = (body.map BitVec.toNat).sum % 256 →
    exec (.send p) s = .next { s with tx := s.tx ++ ([1] ++ body ++ escapeByte cs ++ [4]), result := .nothing }

/-- 43_frame_encoder.md R150: the length of a frame, its bounds, and that every length from 10 to 17 occurs. -/
def Obligations.FrameLengthIs10To17 : Prop :=
  (∀ p : FramePayload,
    (frame p).length = 10 + p.toList.countP isReserved + (isReserved (checksum p)).toNat ∧
    10 ≤ (frame p).length ∧ (frame p).length ≤ 17) ∧
  ∀ n : Nat, 10 ≤ n → n ≤ 17 → ∃ p : FramePayload, (frame p).length = n

/-- 43_frame_encoder.md R148: a frame begins with 1 and ends with 4; strictly between them no byte is 1 or 4, and every
10 is followed, before `STOP`, by 21, 24 or 30. -/
def Obligations.FrameIsDelimited : Prop :=
  ∀ p : FramePayload, ∃ inside : List Byte, frame p = [1] ++ inside ++ [4] ∧
    (1 : Byte) ∉ inside ∧ (4 : Byte) ∉ inside ∧
    ∀ k : Nat, inside[k]? = some 10 →
      inside[k + 1]? = some 21 ∨ inside[k + 1]? = some 24 ∨ inside[k + 1]? = some 30

/-- 43_frame_encoder.md R153, with the receiver of R152: unescaping what stands between the delimiters gives the payload
and its checksum. -/
def Obligations.UnescapeRecoversPayloadAndChecksum : Prop :=
  ∀ p : FramePayload, unescape ((frame p).drop 1).dropLast = some (p.toList ++ [checksum p])

/-- 30_encoding.md R83: the boundaries of frames are found without a length field: the payloads of any sequence of SENDs
are determined by the bytes on the wire. -/
def Obligations.WireBytesDetermineThePayloads : Prop :=
  ∀ ps qs : List FramePayload, ps.flatMap frame = qs.flatMap frame → ps = qs

/-- 20_memory.md R45, R46, 30_encoding.md R88 (the spec's decision D18): the bytes GET_CODE_BYTES returns are the
credential bytes of the SENDREC payload, in order, behind the counter's high and low byte. -/
def Obligations.SendrecCarriesTheCodeBytes : Prop :=
  ∀ (s : State) (d : DecoderState) (dev : Byte) (counter : BitVec 16), s.ds = some d →
    ∃ hi lo b0 b1 b2 b3 : Byte, exec .getCodeBytes s = .next { s with result := .codeBytes b0 b1 b2 b3 } ∧
      hi ++ lo = counter ∧
      (sendrecPayload dev counter d.decodedCode).toList = [dev, hi, lo, b0, b1, b2, b3]

/-! ## Encoding -/

/-- 30_encoding.md R67, R68 (the spec's decision D2): no bit of an event is dropped by its word. -/
def Obligations.DecodeAfterEncode : Prop :=
  ∀ i : Instr, decode (encode i) = .ok i

/-- 30_encoding.md R66, R70: no bit of an accepted word is ignored. -/
def Obligations.EncodeAfterDecode : Prop :=
  ∀ (w : EventWord) (i : Instr), decode w = .ok i → encode i = w

/-- 30_encoding.md R70 (the spec's decision D2): exactly the words of its three clauses are refused. -/
def Obligations.ReservedWordsAreExactlyThoseOfR70 : Prop :=
  ∀ w : EventWord,
    (∃ why, decode w = .error why) ↔
      (w.toNat % 16 = 0 ∨ 9 ≤ w.toNat % 16) ∨ w.toNat / 16 % 16 ≠ 0 ∨ (w.toNat % 16 ≠ 8 ∧ w.toNat / 256 ≠ 0)

/-- 30_encoding.md R67: the decoder agrees with the match and mask columns of the opcode table. -/
def Obligations.DecoderAgreesWithTheOpcodeTable : Prop :=
  ∀ (w : EventWord) (row : OpcodeRow), row ∈ opcodeTable →
    (row.matches w = true ↔ ∃ i, decode w = .ok i ∧ i.mnemonic = row.mnemonic)

/-- 30_encoding.md R68: byte `P[i]` of SEND's payload is `w[63-8i : 56-8i]`. -/
def Obligations.SendOperandFields : Prop :=
  ∀ (w : EventWord) (p : FramePayload), decode w = .ok (.send p) →
    ∀ i : Nat, i < 7 → ∃ b, p.toList[i]? = some b ∧ b.toNat = w.toNat / 2 ^ (56 - 8 * i) % 256

/-- Words written out from 30_encoding.md R67, R68 and R70: 95_test_vectors.md V-EV-4, V-EV-9, V-EV-10, V-EV-13,
V-EV-14, V-EV-16. -/
def Obligations.SampleWordsDecode : Prop :=
  decode 0x0000000000000004 = .ok .poll ∧
  decode 0x12002A0012345608 = .ok (.send ⟨0x12, 0x00, 0x2A, 0x00, 0x12, 0x34, 0x56⟩) ∧
  decode 0x0000000000000000 = .error .opcode ∧ decode 0x0000000000000014 = .error .rsvField ∧
  decode 0x0000000000000104 = .error .operand ∧ decode 0x0000000000000018 = .error .rsvField

/-- 30_encoding.md R87 (the spec's decision D3): pulse `k` of WFRAME carries bit `k` at `(t0 + k*dt) mod 2^32`. -/
def Obligations.WframeExpandsToPulses : Prop :=
  ∀ (bits : List Bool) (t0 dt : Time), (wframe bits t0 dt).length = bits.length ∧
    ∀ (k : Nat) (b : Bool), bits[k]? = some b →
      (wframe bits t0 dt)[k]? =
        some ⟨if b then .pulseD1 else .pulseD0, BitVec.ofNat 32 (t0.toNat + k * dt.toNat)⟩

/-! ## The step -/

/-- A step runs the decoded event at its time (20_memory.md R52, 30_encoding.md R69; the inputs as data are log 2). -/
def Obligations.StepRunsTheDecodedEvent : Prop :=
  ∀ (s : State) (w : EventWord) (now : Time) (rest : List Input) (i : Instr),
    s.inputs = .event w now :: rest → decode w = .ok i → step s = exec i { s with now := now, inputs := rest }

/-- An event offered next runs next, and nothing but it (log 2). -/
def Obligations.OfferedWordRunsNext : Prop :=
  ∀ (s : State) (i : Instr), step (s.withFetchWord 64 (encode i).toNat) = exec i s

/-- 60_exceptions.md R175, 30_encoding.md R70: a reserved word is refused in every state. With no input placed, the
environment has its turn (20_memory.md R52, log 2): its input takes effect like a placed one, and where it gives none
nothing happens (00_scope.md R10). -/
def Obligations.StepRefusesReservedWords : Prop :=
  (∀ (s : State) (w : EventWord) (now : Time) (rest : List Input) (why : Reserved),
    s.inputs = .event w now :: rest → decode w = .error why → step s = .refused (.reservedEvent why)) ∧
  ∀ s : State, s.inputs = [] →
    step s = match Config.environment s.drawn with
      | some x => step { s with drawn := s.drawn + 1, inputs := [x] }
      | none => .next { s with drawn := s.drawn + 1 }

/-- 60_exceptions.md R170, R175: a step is refused only for a reserved word or before INIT. -/
def Obligations.StepRefusesForTwoReasonsOnly : Prop :=
  ∀ (s : State) (r : Refusal), step s = .refused r →
    (r = .beforeInit ∧ s.ds = none) ∨
    ∃ (w : EventWord) (now : Time) (why : Reserved),
      s.nextInput = some (.event w now) ∧ decode w = .error why ∧ r = .reservedEvent why

/-- 60_exceptions.md R170, 41_resolution.md R123, 20_memory.md R52: once INIT has been applied, every sequence of
events, so every interleaving, runs to its end, one step an event; and the run that the environment continues goes on
for ever, unless the environment gives a reserved word. -/
def Obligations.EveryEventCompletesAfterInit : Prop :=
  (∀ (es : List TimedEvent) (s : State) (now : Time),
    (∃ t, runEvents (⟨.init, now⟩ :: es) s = .next t ∧ t.ds ≠ none ∧ t.inputs = []) ∧
    (s.ds ≠ none → ∃ t, runEvents es s = .next t ∧ t.ds ≠ none ∧ t.inputs = [])) ∧
  ∀ (n : Nat) (s : State), s.ds ≠ none → s.inputs = [] →
    (∃ t, runSteps n s = .next t ∧ t.ds ≠ none ∧ t.drawn = s.drawn + n) ∨
    ∃ (k : Nat) (w : EventWord) (now : Time) (why : Reserved), s.drawn ≤ k ∧ k < s.drawn + n ∧
      Config.environment k = some (.event w now) ∧ decode w = .error why

/-- 10_state.md R31, 00_scope.md R8: the parameters do not change while the block runs. -/
def Obligations.ParametersNeverChange : Prop :=
  ∀ s t : State, step s = .next t → t.params = s.params

/-- The invariant holds at power-up (where the encoder's state is log 28) and after reset, in every configuration. Its
clause on the credential of an UNKNOWN width rests on 10_state.md R39, by the spec's decision D6 (log 5). -/
def Obligations.InvariantHoldsAtReset : Prop :=
  ∀ p : Params, (State.powerOn p).Inv ∧ (State.resetWith p).Inv

/-- 10_state.md R29, R25, 43_frame_encoder.md R146, 30_encoding.md R94, R95: every step keeps the invariant: `low_bits`
has a clear bit 0, a 26-bit credential has 24 bits, `decoded_code` is 0 while `decoded_width` is UNKNOWN, `tx` is a
sequence of whole frames, and the frame being emitted at the port level is a frame of which the transport has taken the
bytes before `idx`. The UNKNOWN clause rests on R39, by the spec's decision D6 (log 5): a block whose `decoded_code`
holds something else before the first success does not meet it. -/
def Obligations.EveryStepKeepsTheInvariant : Prop :=
  ∀ s t : State, s.Inv → step s = .next t → t.Inv

/-! ## The port level (the spec's decisions D2, D15, D19; log 8, 9, 10) -/

/-- 30_encoding.md R91, R95: one clock edge is the transaction-level run of its events, in the order of R91, with what
the transport has taken and will take as `tx`; `tx` itself and `result`, the records of the other level, stay (log 3,
log 8). That a `send_req` beside `init` is not accepted is log 10. An edge that cuts a frame short
(70_reset_and_hazards.md R212) is excluded; InitPinCutsTheFrame is about it. -/
def Obligations.ClockEdgeRefinesItsEvents : Prop :=
  ∀ (s : State) (d : DecoderState) (pins : PortPins) (rest : List Input),
    s.ds = some d → s.port.WF → ¬(pins.init = true ∧ s.port.busy = true) →
    ∃ t u : State, step { s with inputs := .cycle pins :: rest } = .next t ∧
      runEvents (eventsOfEdge pins s.port.busy) s.atTransactionLevel = .next u ∧
      t.ds = u.ds ∧ t.atTransactionLevel.tx = u.tx ∧ t.tx = s.tx ∧ t.result = s.result ∧ t.inputs = rest

/-- 30_encoding.md R95, 70_reset_and_hazards.md R216: after a request is accepted, each edge with `tx_ready` takes one
byte, in order, until the whole frame is taken; the encoder is busy exactly until then. -/
def Obligations.AcceptedRequestDeliversItsFrame : Prop :=
  ∀ (s : State) (d : DecoderState) (request : PortPins) (pins : List PortPins),
    s.ds = some d → s.port.busy = false → request.init = false → request.sendReq = true →
    (∀ q ∈ pins, q.init = false ∧ q.sendReq = false) →
    ∃ t : State, runInputs ((request :: pins).map .cycle) s = .next t ∧
      t.port.taken = s.port.taken ++
        (frame (payloadOfOperand request.sendPayload)).take (pins.countP (·.txReady)) ∧
      (t.port.busy = true ↔
        pins.countP (·.txReady) < (frame (payloadOfOperand request.sendPayload)).length)

/-- 70_reset_and_hazards.md R211, 30_encoding.md R95: a `send_req` while busy is ignored. -/
def Obligations.RequestWhileBusyIsIgnored : Prop :=
  ∀ (s : State) (d : DecoderState) (pins : PortPins) (rest : List Input),
    s.ds = some d → s.port.busy = true →
    step { s with inputs := .cycle { pins with sendReq := true } :: rest } =
      step { s with inputs := .cycle { pins with sendReq := false } :: rest }

/-- 44_initialize.md R162, 70_reset_and_hazards.md R212, 30_encoding.md R91, R94: `init` makes the decoder reset and the
encoder idle. The transport has what it took, and the byte offered at this edge if `tx_ready` is high and it is not the
frame's last (log 10): of the frame that was being emitted it has a proper prefix, without `STOP`. `result` stays
(log 3). -/
def Obligations.InitPinCutsTheFrame : Prop :=
  ∀ (s : State) (pins : PortPins) (rest : List Input), pins.init = true →
    ∃ t : State, step { s with inputs := .cycle pins :: rest } = .next t ∧
      t.ds = some
        { bitCount := 0, lowBits := 0, highBits := 0, lastPulseTime := 0, decodedCode := 0, decodedWidth := .unknown } ∧
      t.port.busy = false ∧ t.port.pollReply = none ∧ t.tx = s.tx ∧ t.result = s.result ∧
      t.port.taken = s.port.taken ++ (if pins.txReady then s.port.untaken.dropLast.take 1 else []) ∧
      ∀ e, s.port.WF → s.port.emission = some e →
        ∃ (earlier : List Byte) (k : Nat),
          k = (if pins.txReady = true ∧ e.idx + 1 < e.buf.length then e.idx + 1 else e.idx) ∧
          k < e.buf.length ∧ s.port.taken = earlier ++ e.buf.take e.idx ∧
          t.port.taken = earlier ++ e.buf.take k ∧ Config.stop ∉ e.buf.take k

/-- 30_encoding.md R92, 42_accessors.md R134: a getter event is the sampling of its output. -/
def Obligations.GettersSampleTheOutputs : Prop :=
  ∀ (s : State) (o : PortOutputs), Port.outputs s = some o →
    exec .getCode s = .next { s with result := .code o.code } ∧
    exec .getWidth s = .next { s with result := .width o.width } ∧
    ∃ b0 b1 b2 b3 : Byte, o.codeBytes = [b0, b1, b2, b3] ∧
      exec .getCodeBytes s = .next { s with result := .codeBytes b0 b1 b2 b3 }

/-- 30_encoding.md R92: the getter outputs change only at an edge where INIT or a successful POLL is applied. -/
def Obligations.OutputsChangeOnlyAtInitOrSuccess : Prop :=
  ∀ (s t : State) (pins : PortPins) (rest : List Input) (o o' : PortOutputs),
    Port.outputs s = some o → step { s with inputs := .cycle pins :: rest } = .next t → Port.outputs t = some o' →
    pins.init = true ∨ (pins.pollReq = true ∧ t.port.pollReply = some true) ∨
    (o'.code = o.code ∧ o'.codeBytes = o.codeBytes ∧ o'.width = o.width)

/-- 30_encoding.md R90, 70_reset_and_hazards.md R216: `poll_done` is high exactly after an edge with a POLL, with the
POLL's result. -/
def Obligations.PollDoneFollowsPollRequest : Prop :=
  ∀ (s : State) (d : DecoderState) (pins : PortPins) (rest : List Input), s.ds = some d → pins.init = false →
    ∃ (t : State) (o : PortOutputs), step { s with inputs := .cycle pins :: rest } = .next t ∧
      Port.outputs t = some o ∧ o.pollDone = pins.pollReq ∧
      (pins.pollReq = true → ∃ u b, exec .poll { s with now := pins.nowMs } = .next u ∧
        u.result = .available b ∧ o.pollAvail = some b)

/-- 10_state.md R40, 60_exceptions.md R175 (log 10): before the first INIT a clock edge without `init` is refused, unless
it asks for nothing, and then it changes nothing of the block. -/
def Obligations.EdgesBeforeInitAreRefused : Prop :=
  ∀ (s : State) (pins : PortPins) (rest : List Input), s.ds = none → pins.init = false →
    (pins.pollReq = true ∨ pins.d0Pulse = true ∨ pins.d1Pulse = true ∨ pins.sendReq = true ∨ pins.txReady = true →
      step { s with inputs := .cycle pins :: rest } = .refused .beforeInit) ∧
    (pins.pollReq = false → pins.d0Pulse = false → pins.d1Pulse = false → pins.sendReq = false →
      pins.txReady = false →
      step { s with inputs := .cycle pins :: rest } = .next { s with now := pins.nowMs, inputs := rest })
end

