-- ==== Sys2Proof/Laws/State.lean ====
section
/-! SUPPORT. One lemma per field per update: the writes of State's fields and the decoder's updates
(Machine/Ops.lean), so that no proof unfolds a record update. -/

namespace Sys2Proof.Machine

namespace State

@[simp] theorem setDecoder_params (s : State) (d : DecoderState) : (s.setDecoder d).params = s.params := rfl
@[simp] theorem setDecoder_ds (s : State) (d : DecoderState) : (s.setDecoder d).ds = some d := rfl
@[simp] theorem setDecoder_tx (s : State) (d : DecoderState) : (s.setDecoder d).tx = s.tx := rfl
@[simp] theorem setDecoder_port (s : State) (d : DecoderState) : (s.setDecoder d).port = s.port := rfl
@[simp] theorem setDecoder_result (s : State) (d : DecoderState) : (s.setDecoder d).result = s.result := rfl
@[simp] theorem setDecoder_now (s : State) (d : DecoderState) : (s.setDecoder d).now = s.now := rfl
@[simp] theorem setDecoder_inputs (s : State) (d : DecoderState) : (s.setDecoder d).inputs = s.inputs := rfl
@[simp] theorem setDecoder_drawn (s : State) (d : DecoderState) : (s.setDecoder d).drawn = s.drawn := rfl

@[simp] theorem setResult_params (s : State) (r : Result) : (s.setResult r).params = s.params := rfl
@[simp] theorem setResult_ds (s : State) (r : Result) : (s.setResult r).ds = s.ds := rfl
@[simp] theorem setResult_tx (s : State) (r : Result) : (s.setResult r).tx = s.tx := rfl
@[simp] theorem setResult_port (s : State) (r : Result) : (s.setResult r).port = s.port := rfl
@[simp] theorem setResult_result (s : State) (r : Result) : (s.setResult r).result = r := rfl
@[simp] theorem setResult_now (s : State) (r : Result) : (s.setResult r).now = s.now := rfl
@[simp] theorem setResult_inputs (s : State) (r : Result) : (s.setResult r).inputs = s.inputs := rfl
@[simp] theorem setResult_drawn (s : State) (r : Result) : (s.setResult r).drawn = s.drawn := rfl

@[simp] theorem emit_params (s : State) (xs : List Byte) : (s.emit xs).params = s.params := rfl
@[simp] theorem emit_ds (s : State) (xs : List Byte) : (s.emit xs).ds = s.ds := rfl
@[simp] theorem emit_tx (s : State) (xs : List Byte) : (s.emit xs).tx = s.tx ++ xs := rfl
@[simp] theorem emit_port (s : State) (xs : List Byte) : (s.emit xs).port = s.port := rfl
@[simp] theorem emit_result (s : State) (xs : List Byte) : (s.emit xs).result = s.result := rfl
@[simp] theorem emit_now (s : State) (xs : List Byte) : (s.emit xs).now = s.now := rfl
@[simp] theorem emit_inputs (s : State) (xs : List Byte) : (s.emit xs).inputs = s.inputs := rfl
@[simp] theorem emit_drawn (s : State) (xs : List Byte) : (s.emit xs).drawn = s.drawn := rfl

@[simp] theorem clearPort_params (s : State) : s.clearPort.params = s.params := rfl
@[simp] theorem clearPort_ds (s : State) : s.clearPort.ds = s.ds := rfl
@[simp] theorem clearPort_tx (s : State) : s.clearPort.tx = s.tx := rfl
@[simp] theorem clearPort_emission (s : State) : s.clearPort.port.emission = none := rfl
@[simp] theorem clearPort_pollReply (s : State) : s.clearPort.port.pollReply = none := rfl
@[simp] theorem clearPort_taken (s : State) : s.clearPort.port.taken = s.port.taken := rfl
@[simp] theorem clearPort_result (s : State) : s.clearPort.result = s.result := rfl
@[simp] theorem clearPort_now (s : State) : s.clearPort.now = s.now := rfl
@[simp] theorem clearPort_inputs (s : State) : s.clearPort.inputs = s.inputs := rfl
@[simp] theorem clearPort_drawn (s : State) : s.clearPort.drawn = s.drawn := rfl

@[simp] theorem atTime_params (s : State) (n : Time) : (s.atTime n).params = s.params := rfl
@[simp] theorem atTime_ds (s : State) (n : Time) : (s.atTime n).ds = s.ds := rfl
@[simp] theorem atTime_tx (s : State) (n : Time) : (s.atTime n).tx = s.tx := rfl
@[simp] theorem atTime_port (s : State) (n : Time) : (s.atTime n).port = s.port := rfl
@[simp] theorem atTime_result (s : State) (n : Time) : (s.atTime n).result = s.result := rfl
@[simp] theorem atTime_now (s : State) (n : Time) : (s.atTime n).now = n := rfl
@[simp] theorem atTime_inputs (s : State) (n : Time) : (s.atTime n).inputs = s.inputs := rfl
@[simp] theorem atTime_drawn (s : State) (n : Time) : (s.atTime n).drawn = s.drawn := rfl

@[simp] theorem dropInput_params (s : State) : s.dropInput.params = s.params := by unfold dropInput; split <;> rfl
@[simp] theorem dropInput_ds (s : State) : s.dropInput.ds = s.ds := by unfold dropInput; split <;> rfl
@[simp] theorem dropInput_tx (s : State) : s.dropInput.tx = s.tx := by unfold dropInput; split <;> rfl
@[simp] theorem dropInput_port (s : State) : s.dropInput.port = s.port := by unfold dropInput; split <;> rfl
@[simp] theorem dropInput_result (s : State) : s.dropInput.result = s.result := by unfold dropInput; split <;> rfl
@[simp] theorem dropInput_now (s : State) : s.dropInput.now = s.now := by unfold dropInput; split <;> rfl
@[simp] theorem dropInput_inputs (s : State) : s.dropInput.inputs = s.inputs.tail := by
  cases h : s.inputs <;> simp [dropInput, h]
theorem dropInput_drawn (s : State) : s.dropInput.drawn = if s.inputs = [] then s.drawn + 1 else s.drawn := by
  cases h : s.inputs <;> simp [dropInput, h]

theorem withDecoder_none {s : State} (h : s.ds = none) (k : DecoderState → Answer) :
    s.withDecoder k = .refused .beforeInit := by simp [State.withDecoder, h]

theorem withDecoder_some {s : State} {d : DecoderState} (h : s.ds = some d) (k : DecoderState → Answer) :
    s.withDecoder k = k d := by simp [State.withDecoder, h]

/-- All that `withDecoder` can do. -/
theorem withDecoder_next {s t : State} {k : DecoderState → Answer} (h : s.withDecoder k = .next t) :
    ∃ d, s.ds = some d ∧ k d = .next t := by
  cases hd : s.ds with
  | none => simp [withDecoder_none hd] at h
  | some d => exact ⟨d, rfl, by rwa [withDecoder_some hd] at h⟩

end State

namespace DecoderState

@[simp] theorem clear_bitCount (d : DecoderState) : d.clear.bitCount = 0 := rfl
@[simp] theorem clear_lowBits (d : DecoderState) : d.clear.lowBits = 0 := rfl
@[simp] theorem clear_highBits (d : DecoderState) : d.clear.highBits = 0 := rfl
@[simp] theorem clear_lastPulseTime (d : DecoderState) : d.clear.lastPulseTime = d.lastPulseTime := rfl
@[simp] theorem clear_decodedCode (d : DecoderState) : d.clear.decodedCode = d.decodedCode := rfl
@[simp] theorem clear_decodedWidth (d : DecoderState) : d.clear.decodedWidth = d.decodedWidth := rfl

@[simp] theorem pulse_bitCount (b : Bool) (now : Time) (d : DecoderState) :
    (d.pulse b now).bitCount = d.bitCount + 1 := rfl
@[simp] theorem pulse_lowBits (b : Bool) (now : Time) (d : DecoderState) :
    (d.pulse b now).lowBits = (d.lowBits ||| lineBit b) <<< 1 := rfl
@[simp] theorem pulse_highBits (b : Bool) (now : Time) (d : DecoderState) :
    (d.pulse b now).highBits =
      if (d.bitCount + 1).toNat > 31 then (d.highBits <<< 1) ||| lowTop d else d.highBits := rfl
@[simp] theorem pulse_lastPulseTime (b : Bool) (now : Time) (d : DecoderState) :
    (d.pulse b now).lastPulseTime = now := rfl
@[simp] theorem pulse_decodedCode (b : Bool) (now : Time) (d : DecoderState) :
    (d.pulse b now).decodedCode = d.decodedCode := rfl
@[simp] theorem pulse_decodedWidth (b : Bool) (now : Time) (d : DecoderState) :
    (d.pulse b now).decodedWidth = d.decodedWidth := rfl

end DecoderState

end Sys2Proof.Machine
end

