-- ==== Sys2Proof/Laws/Decoder.lean ====
section
/-! SUPPORT. What the shared operations of the decoder can do, said once: the silence test, the five outcomes of POLL
(41_resolution.md R119), and what a meaning answers once the decoder exists. -/

namespace Sys2Proof.Machine

theorem poll_of_pending {p : Params} {now : Time} {d : DecoderState}
    (h : (elapsed now d.lastPulseTime).toNat ≤ Config.silenceMs) : d.poll p now = (d, .pending) := by
  simp [DecoderState.poll, h]

/-- Everything POLL can do on the decoder state: one case per row of R119. -/
theorem poll_cases (p : Params) (now : Time) (d : DecoderState) :
    ((elapsed now d.lastPulseTime).toNat ≤ Config.silenceMs ∧ d.poll p now = (d, .pending)) ∨
    (Config.silenceMs < (elapsed now d.lastPulseTime).toNat ∧
      ((d.bitCount = 26 ∧ (p.validateParity && p.parity26 && !parity26Ok (frame26 d)) = false ∧
          d.poll p now = ({ d.clear with decodedCode := code26 d, decodedWidth := .w26 }, .ok26)) ∨
       (d.bitCount = 34 ∧
          (p.validateParity && !parity34Ok (leading34 d) (code34 d) (trailing34 d)) = false ∧
          d.poll p now = ({ d.clear with decodedCode := code34 d, decodedWidth := .w34 }, .ok34)) ∨
       ((d.bitCount = 26 ∧ (p.validateParity && p.parity26 && !parity26Ok (frame26 d)) = true ∨
          d.bitCount = 34 ∧
            (p.validateParity && !parity34Ok (leading34 d) (code34 d) (trailing34 d)) = true) ∧
          d.poll p now = (d.clear, .parityFail)) ∨
       (d.bitCount ≠ 26 ∧ d.bitCount ≠ 34 ∧
          d.poll p now = ({ d.clear with lastPulseTime := now }, .noise)))) := by
  by_cases hs : (elapsed now d.lastPulseTime).toNat ≤ Config.silenceMs
  · exact .inl ⟨hs, poll_of_pending hs⟩
  · refine .inr ⟨by omega, ?_⟩
    by_cases h26 : d.bitCount = 26
    · by_cases hp : (p.validateParity && p.parity26 && !parity26Ok (frame26 d)) = true
      · exact .inr (.inr (.inl ⟨.inl ⟨h26, hp⟩, by simp [DecoderState.poll, hs, h26, resolve26, hp]⟩))
      · have hp' := Bool.eq_false_iff.mpr hp
        exact .inl ⟨h26, hp', by simp [DecoderState.poll, hs, h26, resolve26, hp', DecoderState.clear]⟩
    · by_cases h34 : d.bitCount = 34
      · by_cases hp : (p.validateParity && !parity34Ok (leading34 d) (code34 d) (trailing34 d)) = true
        · exact .inr (.inr (.inl ⟨.inr ⟨h34, hp⟩, by simp [DecoderState.poll, hs, h34, resolve34, hp]⟩))
        · have hp' := Bool.eq_false_iff.mpr hp
          exact .inr (.inl ⟨h34, hp', by simp [DecoderState.poll, hs, h34, resolve34, hp', DecoderState.clear]⟩)
      · exact .inr (.inr (.inr ⟨h26, h34, by
          simp only [DecoderState.poll, if_neg hs, if_neg h26, if_neg h34]; rfl⟩))

/-- Without a decoder state every meaning but INIT's is refused (10_state.md R40). -/
theorem exec_beforeInit {s : State} (h : s.ds = none) :
    ∀ i : Instr, i = .init ∨ exec i s = .refused .beforeInit
  | .init => .inl rfl
  | .pulseD0 => .inr (State.withDecoder_none h _)
  | .pulseD1 => .inr (State.withDecoder_none h _)
  | .poll => .inr (State.withDecoder_none h _)
  | .getCode => .inr (State.withDecoder_none h _)
  | .getCodeBytes => .inr (State.withDecoder_none h _)
  | .getWidth => .inr (State.withDecoder_none h _)
  | .send _ => .inr (State.withDecoder_none h _)

/-- What each event answers on a decoder state `d`. -/
def afterEvent (i : Instr) (s : State) (d : DecoderState) : State :=
  match i with
  | .init => (s.setDecoder .reset).clearPort.setResult .nothing
  | .pulseD0 => (s.setDecoder (d.pulse false s.now)).setResult .nothing
  | .pulseD1 => (s.setDecoder (d.pulse true s.now)).setResult .nothing
  | .poll =>
    (s.setDecoder (d.poll s.params s.now).1).setResult (.available (d.poll s.params s.now).2.available)
  | .getCode => s.setResult (.code d.decodedCode)
  | .getCodeBytes =>
    s.setResult (.codeBytes (wordByte d.decodedCode 3) (wordByte d.decodedCode 2) (wordByte d.decodedCode 1)
      (wordByte d.decodedCode 0))
  | .getWidth => s.setResult (.width d.decodedWidth.toByte)
  | .send p => (s.emit (frame p)).setResult .nothing

theorem exec_afterInit {s : State} {d : DecoderState} (h : s.ds = some d) :
    ∀ i : Instr, exec i s = .next (afterEvent i s d)
  | .init => rfl
  | .pulseD0 => State.withDecoder_some h _
  | .pulseD1 => State.withDecoder_some h _
  | .poll => State.withDecoder_some h _
  | .getCode => State.withDecoder_some h _
  | .getCodeBytes => State.withDecoder_some h _
  | .getWidth => State.withDecoder_some h _
  | .send _ => State.withDecoder_some h _

/-- Everything a meaning can do when it answers a next state. -/
theorem exec_next_cases {i : Instr} {s t : State} (h : exec i s = .next t) :
    (i = .init ∧ t = (s.setDecoder .reset).clearPort.setResult .nothing) ∨
    ∃ d, s.ds = some d ∧ t = afterEvent i s d := by
  cases hd : s.ds with
  | none =>
    rcases exec_beforeInit hd i with rfl | hr
    · exact .inl ⟨rfl, by simpa [exec, execInit] using h.symm⟩
    · rw [hr] at h; cases h
  | some d =>
    rw [exec_afterInit hd i] at h
    exact .inr ⟨d, rfl, by injection h with h; exact h.symm⟩

/-- All that a step can do: nothing, where the environment gives no input; an event; a clock edge. -/
theorem step_cases (s : State) :
    (s.inputs = [] ∧ Config.environment s.drawn = none ∧ step s = .next { s with drawn := s.drawn + 1 }) ∨
    (∃ w now, s.nextInput = some (.event w now) ∧ step s = runEvent w now s.dropInput) ∨
    ∃ pins, s.nextInput = some (.cycle pins) ∧ step s = clockEdge pins (s.dropInput.atTime pins.nowMs) := by
  cases hx : s.nextInput with
  | none =>
    refine .inl ?_
    cases hi : s.inputs with
    | nil => exact ⟨rfl, by simpa [State.nextInput, hi] using hx, by
        simp [step, runNextInput, hx, State.dropInput, hi]⟩
    | cons x rest => simp [State.nextInput, hi] at hx
  | some x =>
    refine .inr ?_
    cases x with
    | event w now => exact .inl ⟨w, now, rfl, by simp [step, runNextInput, hx, runInput]⟩
    | cycle pins => exact .inr ⟨pins, rfl, by simp [step, runNextInput, hx, runInput]⟩

theorem step_event {s : State} {w : EventWord} {now : Time} {rest : List Input}
    (h : s.inputs = .event w now :: rest) : step s = runEvent w now { s with inputs := rest } := by
  simp [step, runNextInput, State.nextInput, State.dropInput, runInput, h]

theorem step_cycle {s : State} {pins : PortPins} {rest : List Input}
    (h : s.inputs = .cycle pins :: rest) :
    step s = clockEdge pins { s with now := pins.nowMs, inputs := rest } := by
  simp [step, runNextInput, State.nextInput, State.dropInput, runInput, State.atTime, h]

/-- With nothing placed, a step does with the environment's input what it does with a placed one. -/
theorem step_environment {s : State} {x : Input} (hi : s.inputs = [])
    (hx : Config.environment s.drawn = some x) : step s = step { s with drawn := s.drawn + 1, inputs := [x] } := by
  simp [step, runNextInput, State.nextInput, State.dropInput, hi, hx]

end Sys2Proof.Machine
end

