-- ==== Sys2Proof/Laws/Encoder.lean ====
section
/-! SUPPORT. The escape function and the frame, each said once (43_frame_encoder.md R141 to R145). -/

namespace Sys2Proof.Machine

/-- The two forms of `esc` (R141). -/
theorem escapeByte_cases (b : Byte) :
    (isReserved b = true ∧ escapeByte b = [Config.esc, b + Config.escOffset]) ∨
    (isReserved b = false ∧ escapeByte b = [b]) := by
  by_cases h : isReserved b = true
  · exact .inl ⟨h, by simp [escapeByte, h]⟩
  · exact .inr ⟨Bool.eq_false_iff.mpr h, by simp [escapeByte, h]⟩

/-- The reserved bytes by name (30_encoding.md R80). -/
theorem isReserved_eq_true {b : Byte} (h : isReserved b = true) :
    b = Config.start ∨ b = Config.stop ∨ b = Config.esc := by
  simp only [isReserved, Bool.or_eq_true, beq_iff_eq] at h
  tauto

theorem escapeByte_length (b : Byte) :
    (escapeByte b).length = 1 + (isReserved b).toNat := by
  rcases escapeByte_cases b with ⟨h, he⟩ | ⟨h, he⟩ <;> simp [h, he]

@[simp] theorem escapeBytes_nil : escapeBytes [] = [] := rfl

@[simp] theorem escapeBytes_cons (b : Byte) (bs : List Byte) :
    escapeBytes (b :: bs) = escapeByte b ++ escapeBytes bs := rfl

theorem escapeBytes_append (xs ys : List Byte) :
    escapeBytes (xs ++ ys) = escapeBytes xs ++ escapeBytes ys := List.flatMap_append

/-- What stands between the delimiters is the escaped payload followed by the escaped checksum (R142, R144). -/
theorem frameInside_eq (p : FramePayload) : frameInside p = escapeBytes (p.toList ++ [checksum p]) := by
  simp [frameInside, frameBody, escapeBytes_append]

/-- All that the handshake of an `init` edge can do: nothing, or take one byte that is not the frame's last. -/
theorem takeCut_cases (r : Bool) (p : PortState) :
    p.takeCut r = p ∨
    ∃ e, p.emission = some e ∧ r = true ∧ e.idx + 1 < e.buf.length ∧ p.takeCut r = p.takeByte := by
  cases h : p.emission with
  | none => exact .inl (by simp [PortState.takeCut, h])
  | some e =>
    by_cases hr : r = true ∧ e.idx + 1 < e.buf.length
    · exact .inr ⟨e, rfl, hr.1, hr.2, by simp [PortState.takeCut, h, hr]⟩
    · exact .inl (by simpa [PortState.takeCut, h] using fun a b => absurd ⟨a, b⟩ hr)

end Sys2Proof.Machine
end

