-- ==== Sys2Proof/Laws/PerInstr.lean ====
section
/-! SUPPORT. Statements for all events, made per event. Family `TableRow`: an event encodes to a word of its own row of
the opcode table (30_encoding.md R67), by match and mask. -/

namespace Sys2Proof.Laws.TableRow

/-- Some row of the table has the event's mnemonic and matches its word. -/
def Statement (i : Instr) : Prop :=
  (opcodeTable.find? fun r => r.mnemonic == i.mnemonic).any (fun r => r.matches (encode i)) = true

theorem init : Statement .init := by unfold Statement; decide
theorem pulseD0 : Statement .pulseD0 := by unfold Statement; decide
theorem pulseD1 : Statement .pulseD1 := by unfold Statement; decide
theorem poll : Statement .poll := by unfold Statement; decide
theorem getCode : Statement .getCode := by unfold Statement; decide
theorem getCodeBytes : Statement .getCodeBytes := by unfold Statement; decide
theorem getWidth : Statement .getWidth := by unfold Statement; decide

theorem send (payload : FramePayload) : Statement (.send payload) := by
  have hfind : (opcodeTable.find? fun r => r.mnemonic == "SEND") =
      some ⟨"SEND", 0x0000000000000008, 0x00000000000000FF⟩ := by decide
  have hmask : encode (.send payload) &&& 0x00000000000000FF#64 = 0x0000000000000008#64 := by
    generalize hv : operandOfPayload payload = v
    simp only [encode, hv]
    apply BitVec.eq_of_toNat_eq
    have h255 : BitVec.toNat (0x00000000000000FF#64) = 2 ^ 8 - 1 := by decide
    rw [BitVec.toNat_and, h255, Nat.and_two_pow_sub_one_eq_mod, BitVec.toNat_append, Nat.or_mod_two_pow,
      Nat.shiftLeft_eq, Nat.mul_mod_left]
    decide
  simpa [Statement, Instr.mnemonic, hfind, OpcodeRow.matches] using hmask

end Sys2Proof.Laws.TableRow
end

