-- ==== Sys2Proof/Tests/Slice0.lean ====
section
/-! SUPPORT. The model's own tests. Expected values are those of 95_test_vectors.md, named in each comment, or are
written out from the spec's encodings. The second half names, for every statement with hypotheses, states and operands
that meet all of them together. -/

open Sys2Proof Sys2Proof.Machine

namespace Sys2Proof.Tests

/-- A decoder state in the notation of 95_test_vectors.md: `(count, low, high, last, code, width)`. -/
def dec (count low high : Word) (last : Time) (code : Word) (width : DecodedWidth) : DecoderState :=
  ⟨count, low, high, last, code, width⟩

/-- A state with this decoder, the clock at `now`. -/
def stateAt (p : Params) (now : Time) (d : DecoderState) : State :=
  { State.resetWith p with ds := some d, now := now }

/-- Both parity parameters false, the test vectors' default. -/
def noParity : Params := ⟨false, false⟩
def parity34 : Params := ⟨true, false⟩
def parityBoth : Params := ⟨true, true⟩

/-- The answer is a next state with this decoder and this result. -/
def answers (a : Answer) (d : DecoderState) (r : Result) : Bool :=
  match a with
  | .next t => t.ds == some d && t.result == r
  | .fault _ => false
  | .refused _ => false

/-- The answer is a next state with this `tx` and this decoder. -/
def emits (a : Answer) (d : DecoderState) (tx : List Byte) : Bool :=
  match a with
  | .next t => t.ds == some d && t.tx == tx
  | .fault _ => false
  | .refused _ => false

/-- The answer is this refusal. -/
def refuses (a : Answer) (r : Refusal) : Bool :=
  match a with
  | .next _ => false
  | .fault _ => false
  | .refused q => q == r

/-- The answer is some next state. -/
def goesOn (a : Answer) : Bool :=
  match a with
  | .next _ => true
  | .fault _ => false
  | .refused _ => false

/-! ## Decoding: words written out bit by bit from 30_encoding.md R66, R67 (`operand ++ rsv ++ op`) -/

def word (operand : BitVec 56) (rsv op : BitVec 4) : EventWord := operand ++ rsv ++ op

theorem test_decode_init : decode (word 0 0b0000 0b0001) = .ok .init := by decide
theorem test_decode_pulseD0 : decode (word 0 0b0000 0b0010) = .ok .pulseD0 := by decide
theorem test_decode_pulseD1 : decode (word 0 0b0000 0b0011) = .ok .pulseD1 := by decide
theorem test_decode_poll : decode (word 0 0b0000 0b0100) = .ok .poll := by decide
theorem test_decode_getCode : decode (word 0 0b0000 0b0101) = .ok .getCode := by decide
theorem test_decode_getCodeBytes : decode (word 0 0b0000 0b0110) = .ok .getCodeBytes := by decide
theorem test_decode_getWidth : decode (word 0 0b0000 0b0111) = .ok .getWidth := by decide
/-- R68's example. -/
theorem test_decode_send :
    decode 0xC500010012345608 = .ok (.send ⟨0xC5, 0x00, 0x01, 0x00, 0x12, 0x34, 0x56⟩) := by decide
/-- V-EV-10 to V-EV-14, V-EV-16. -/
theorem test_decode_reserved :
    [0x0, 0x9, 0xF, 0x14, 0x104, 0x18].map decode =
      [.error .opcode, .error .opcode, .error .opcode, .error .rsvField, .error .operand, .error .rsvField] := by
  decide
theorem test_decodeTableWord_send_short : decodeTableWord 8 8 = some (.send ⟨0, 0, 0, 0, 0, 0, 0⟩) := by decide

/-- Every row of the table runs as the first event after reset. -/
theorem test_rows_run_after_reset :
    opcodeTable.all (fun r => goesOn (step (State.reset.withFetchWord 64 r.pattern.toNat))) = true := by decide

/-- No word belongs to two rows: two rows differ on a bit that both fix. -/
theorem test_rows_disjoint :
    opcodeTable.Pairwise (fun a b => (a.pattern ^^^ b.pattern) &&& (a.mask &&& b.mask) ≠ 0) := by decide

/-! ## What is ill-formed is refused -/

/-- R70, first clause. -/
theorem test_illformed_op : EventWord.wellFormed (word 0 0 0b1001) = false := by decide
/-- R70, second clause. -/
theorem test_illformed_rsv : EventWord.wellFormed (word 0 0b0001 0b0100) = false := by decide
/-- R70, third clause. -/
theorem test_illformed_operand : EventWord.wellFormed (word 1 0 0b0100) = false := by decide
/-- R84: exactly 7 bytes. -/
theorem test_illformed_payload_short : FramePayload.ofList? [1, 2, 3, 4, 5, 6] = none := by decide
theorem test_illformed_payload_long : FramePayload.ofList? [1, 2, 3, 4, 5, 6, 7, 8] = none := by decide

/-! ## One step of each event -/

/-- V-INIT-3: the credential goes, `tx` stays. -/
theorem test_init_keeps_tx :
    emits (exec .init { stateAt noParity 0 (dec 0 0 0 2066 0xDEADBEEF .w34) with tx := [1, 0, 4] })
      (dec 0 0 0 0 0 .unknown) [1, 0, 4] = true := by decide
/-- V-INIT-1: INIT at power-up. -/
theorem test_init_powerOn :
    answers (exec .init (State.powerOn noParity)) (dec 0 0 0 0 0 .unknown) .nothing = true := by decide

/-- V-PUL-6: the count wraps and nothing is carried. -/
theorem test_pulseD0_wrap :
    answers (exec .pulseD0 (stateAt noParity 10 (dec 0xFFFFFFFF 0 0 9 0 .unknown)))
      (dec 0 0 0 10 0 .unknown) .nothing = true := by decide
/-- V-PUL-7: `high[31]` is lost, `low[31]` is carried. -/
theorem test_pulseD0_carry :
    answers (exec .pulseD0 (stateAt noParity 1 (dec 40 0x80000000 0x80000000 0 0 .unknown)))
      (dec 41 0 1 1 0 .unknown) .nothing = true := by decide
/-- V-PUL-4: count 31, no carry. -/
theorem test_pulseD1_no_carry :
    answers (exec .pulseD1 (stateAt noParity 30 (dec 30 0x7FFFFFFE 0 29 0 .unknown)))
      (dec 31 0xFFFFFFFE 0 30 0 .unknown) .nothing = true := by decide
/-- V-PUL-5: count 32, the first carry. -/
theorem test_pulseD1_carry :
    answers (exec .pulseD1 (stateAt noParity 31 (dec 31 0xFFFFFFFE 0 30 0 .unknown)))
      (dec 32 0xFFFFFFFE 1 31 0 .unknown) .nothing = true := by decide

/-- V-POLL-1 and V-POLL-2: 25 ms is PENDING, 26 ms resolves 0x123456. -/
theorem test_poll_26 :
    (answers (exec .poll (stateAt noParity 1075 (dec 26 0x0048D158 0 1050 0 .unknown)))
      (dec 26 0x0048D158 0 1050 0 .unknown) (.available false) &&
    answers (exec .poll (stateAt noParity 1076 (dec 26 0x0048D158 0 1050 0 .unknown)))
      (dec 0 0 0 1050 0x00123456 .w26) (.available true)) = true := by decide
/-- V-POLL-12, V-PAR-1 and V-PAR-2: 0xDEADBEEF with correct parity, with the leading and with the trailing bit
inverted. -/
theorem test_poll_34 :
    (answers (exec .poll (stateAt parity34 1092 (dec 34 0x7AB6FBBC 7 1066 0 .unknown)))
      (dec 0 0 0 1066 0xDEADBEEF .w34) (.available true) &&
    answers (exec .poll (stateAt parity34 1092 (dec 34 0x7AB6FBBC 3 1066 0 .unknown)))
      (dec 0 0 0 1066 0 .unknown) (.available false) &&
    answers (exec .poll (stateAt parity34 1092 (dec 34 0x7AB6FBBE 7 1066 0 .unknown)))
      (dec 0 0 0 1066 0 .unknown) (.available false)) = true := by decide

/-- V-ACC-2. -/
theorem test_getCode :
    answers (exec .getCode (stateAt noParity 0 (dec 0 0 0 0 0x00123456 .w26)))
      (dec 0 0 0 0 0x00123456 .w26) (.code 0x00123456) = true := by decide
/-- V-ACC-3. -/
theorem test_getCodeBytes :
    answers (exec .getCodeBytes (stateAt noParity 0 (dec 0 0 0 0 0xDEADBEEF .w34)))
      (dec 0 0 0 0 0xDEADBEEF .w34) (.codeBytes 0xDE 0xAD 0xBE 0xEF) = true := by decide
/-- V-ACC-4. -/
theorem test_getWidth :
    answers (exec .getWidth (stateAt noParity 0 (dec 0 0 0 0 0x80000001 .w34)))
      (dec 0 0 0 0 0x80000001 .w34) (.width 34) = true := by decide
/-- V-ACC-1. -/
theorem test_getWidth_unknown : answers (exec .getWidth State.reset) .reset (.width 0) = true := by decide

/-- V-SND-11: START, STOP and START in the payload. -/
theorem test_send_escapes :
    emits (exec (.send ⟨0xC5, 0x00, 0x01, 0x04, 0x01, 0x10, 0x04⟩) State.reset) .reset
      [0x01, 0xC5, 0x00, 0x0A, 0x15, 0x0A, 0x18, 0x0A, 0x15, 0x10, 0x0A, 0x18, 0x57, 0x04] = true := by decide
/-- V-SND-4: the checksum is 10 and is escaped. -/
theorem test_send_escapes_checksum :
    emits (exec (.send ⟨0x03, 0x07, 0, 0, 0, 0, 0⟩) State.reset) .reset
      [0x01, 0x03, 0x07, 0x00, 0x00, 0x00, 0x00, 0x00, 0x0A, 0x1E, 0x04] = true := by decide

/-- 95_test_vectors.md 2.1: every accepted word but INIT is refused before the first INIT. -/
theorem test_beforeInit :
    opcodeTable.all (fun r => r.mnemonic == "INIT" ||
      refuses (step ((State.powerOn noParity).withFetchWord 64 r.pattern.toNat)) .beforeInit) = true := by decide
/-- 95_test_vectors.md 2.1: a reserved word is refused `reservedEvent` in every state. -/
theorem test_reserved_powerOn :
    refuses (step ((State.powerOn noParity).withFetchWord 64 0x14)) (.reservedEvent .rsvField) = true := by decide

/-! ## The port level and the trace syntax -/

def pins (init d0 d1 poll send ready : Bool) (now : Time) : PortPins := ⟨init, now, d0, d1, poll, send, 0, ready⟩

/-- R91: POLL comes before a pulse of the same edge: the frame resolves and the pulse opens the next one. -/
theorem test_edge_poll_then_pulse :
    (match clockEdge (pins false false true true false false 1076)
        (stateAt noParity 0 (dec 26 0x0048D158 0 1050 0 .unknown)) with
      | .next t => t.ds == some (dec 1 2 0 1076 0x00123456 .w26) && t.port.pollReply == some true
      | .fault _ => false
      | .refused _ => false) = true := by decide

/-- R95: taking the last byte makes the encoder idle. -/
theorem test_edge_last_byte :
    (match clockEdge (pins false false false false false true 0)
        { State.reset with port := ⟨some ⟨[1, 0, 4], 2⟩, none, [1, 0]⟩ } with
      | .next t => t.port == ⟨none, none, [1, 0, 4]⟩
      | .fault _ => false
      | .refused _ => false) = true := by decide

/-- R94: a byte inside the frame, offered on an edge with `init` and `tx_ready`, is taken. -/
theorem test_init_edge_takes :
    (match clockEdge (pins true false false false false true 0)
        { State.reset with port := ⟨some ⟨[1, 0, 4], 1⟩, none, [1]⟩ } with
      | .next t => t.port == ⟨none, none, [1, 0]⟩
      | .fault _ => false
      | .refused _ => false) = true := by decide

/-- R212: STOP offered on an edge with `init` and `tx_ready` is not taken. -/
theorem test_init_edge_cuts :
    (match clockEdge (pins true false false false false true 0)
        { State.reset with port := ⟨some ⟨[1, 0, 4], 2⟩, none, [1, 0]⟩ } with
      | .next t => t.port == ⟨none, none, [1, 0]⟩
      | .fault _ => false
      | .refused _ => false) = true := by decide

/-- R87's and R88's examples, in the syntax of R85. -/
theorem test_trace_text :
    (parseTrace "WFRAME 101 @100, +2 ; comment\nSENDREC 0xC5, 1, 0x00123456".toList).map assembleTrace =
      some [.event 0x3 100, .event 0x2 102, .event 0x3 104, .event 0xC500010012345608 0] := by decide
theorem test_trace_rejects : parseTrace "POLL\n".toList = none := by decide

/-! ## Witnesses: states and operands that meet each statement's hypotheses -/

/-- A decoder with 26 pulses received, the last at 1050 (V-P26-3). -/
def d26 : DecoderState := dec 26 0x0048D158 0 1050 0 .unknown
/-- A decoder with 34 pulses received, the last at 1066 (V-P34-4). -/
def d34 : DecoderState := dec 34 0x7AB6FBBC 7 1066 0 .unknown
/-- Pulses with these bits, 2 ms apart from 1000. -/
def trainOf (bits : List Bool) : List (Bool × Time) :=
  bits.zipIdx.map fun e => (e.1, BitVec.ofNat 32 (1000 + 2 * e.2))
/-- The bits of a frame value, first pulse first. -/
def bitsOf (n f : Nat) : List Bool := (List.range n).map fun k => f.testBit (n - 1 - k)
/-- A port in the middle of a frame. -/
def busyPort : PortState := ⟨some ⟨frame ⟨0, 0, 0, 0, 0, 0, 0⟩, 1⟩, none, [1]⟩

/-- Any decoder present, with the boundary values of the carry test and of the wrap. -/
theorem witness_PulseD0Step :
    (State.powerOn noParity).ds = none ∧ (stateAt noParity 0 (dec 30 0 0 0 0 .unknown)).ds = some (dec 30 0 0 0 0 .unknown) ∧
    (stateAt noParity 0 (dec 31 0 0 0 0 .unknown)).ds = some (dec 31 0 0 0 0 .unknown) := by decide
theorem witness_PulseD1Step :
    (State.powerOn noParity).ds = none ∧ (stateAt noParity 0 (dec 30 0 0 0 0 .unknown)).ds = some (dec 30 0 0 0 0 .unknown) ∧
    (stateAt noParity 0 (dec 31 0 0 0 0 .unknown)).ds = some (dec 31 0 0 0 0 .unknown) := by decide
theorem witness_OnlyInitRunsBeforeInit :
    let s : State := { State.powerOn noParity with inputs := [.event (encode .poll) 7] }
    s.ds = none ∧ Instr.poll ≠ .init ∧ s.inputs = .event (encode .poll) 7 :: [] := by decide
theorem witness_PulsesAccumulateTheFrameValue :
    State.reset.ds = some .reset ∧ DecoderState.reset.Cleared ∧ (trainOf (bitsOf 34 0x3BD5B7DDE)).length < 2 ^ 32 := by
  decide
theorem witness_CountWrapSkipsTheCarry :
    let d := dec 0xFFFFFFFF 0x80000000 5 0 0 .unknown
    let ps := trainOf (bitsOf 32 0xFFFFFFFF)
    (stateAt noParity 0 d).ds = some d ∧ d.bitCount = 0xFFFFFFFF ∧ 1 ≤ ps.length ∧ ps.length ≤ 32 := by decide
theorem witness_SimultaneousPulsesInEitherOrder :
    (stateAt noParity 0 d26).ds = some d26 ∧ d26.WF := by decide
theorem witness_EveryInterleavingCountsEveryPulse :
    State.reset.ds = some .reset ∧
    Admits [⟨.pulseD0, 5⟩, ⟨.pulseD0, 9⟩] [⟨.pulseD1, 5⟩] [] [⟨.pulseD0, 5⟩, ⟨.pulseD1, 5⟩, ⟨.pulseD0, 9⟩] := by decide
/-- Both clauses, at the boundary: 25 and 26 ms. -/
theorem witness_PollSilenceTest :
    (State.powerOn noParity).ds = none ∧ (stateAt noParity 1075 d26).ds = some d26 ∧
    silence (stateAt noParity 1075 d26).now d26.lastPulseTime ≤ 25 ∧
    25 < silence (stateAt noParity 1076 d26).now d26.lastPulseTime := by decide
theorem witness_PollDecodes26 :
    let s := stateAt parity34 1076 d26
    s.ds = some d26 ∧ 25 < silence s.now d26.lastPulseTime ∧ d26.bitCount = 26 ∧
    (s.params.validateParity = false ∨ s.params.parity26 = false) := by decide
theorem witness_PollDecodes34 :
    let s := stateAt noParity 1092 d34
    s.ds = some d34 ∧ 25 < silence s.now d34.lastPulseTime ∧ d34.bitCount = 34 ∧ s.params.validateParity = false := by
  decide
/-- Both branches of the check: V-P26-3 passes, V-PAR-3 fails. -/
theorem witness_PollChecksParity26 :
    let s := stateAt parityBoth 1076 d26
    s.ds = some d26 ∧ 25 < silence s.now d26.lastPulseTime ∧ d26.bitCount = 26 ∧ s.params.validateParity = true ∧
    s.params.parity26 = true ∧
    (popcount (d26.lowBits.extractLsb' 14 13) % 2 = 0 ∧ popcount (d26.lowBits.extractLsb' 1 13) % 2 = 1) ∧
    popcount ((0x448D158 : Word).extractLsb' 14 13) % 2 = 1 := by decide
/-- Both branches of the check: V-P34-4 passes, V-PAR-2 fails. -/
theorem witness_PollChecksParity34 :
    let s := stateAt parity34 1092 d34
    s.ds = some d34 ∧ 25 < silence s.now d34.lastPulseTime ∧ d34.bitCount = 34 ∧ s.params.validateParity = true ∧
    ((popcount (d34.highBits.extractLsb' 0 3) + popcount (d34.lowBits.extractLsb' 18 14)) % 2 = 0 ∧
      popcount (d34.lowBits.extractLsb' 1 17) % 2 = 1) ∧
    popcount ((0x7AB6FBBE : Word).extractLsb' 1 17) % 2 = 0 := by decide
theorem witness_PollDiscardsNoise :
    let d := dec 0 0 0 0 0 .unknown
    let s := stateAt noParity 26 d
    s.ds = some d ∧ 25 < silence s.now d.lastPulseTime ∧ d.bitCount ≠ 26 ∧ d.bitCount ≠ 34 := by decide
theorem witness_NoSecondAvailableForOneFrame :
    ∃ t, exec .poll (stateAt noParity 1076 d26) = .next t ∧ t.result = .available true := ⟨_, rfl, by decide⟩
theorem witness_SingleBitErrorsOf34AreRejected :
    (stateAt parity34 1092 d34).ds = some d34 ∧ d34.bitCount = 34 ∧
    (stateAt parity34 1092 d34).params.validateParity = true ∧ 33 < 34 ∧
    ∃ t, exec .poll (stateAt parity34 1092 d34) = .next t ∧ t.result = .available true :=
  ⟨rfl, rfl, rfl, by decide, _, rfl, by decide⟩
theorem witness_Received26BitFrameIsDecoded :
    let ps := trainOf (bitsOf 26 0x02468AC)
    let s := State.resetWith parityBoth
    s.ds = some .reset ∧ DecoderState.reset.Cleared ∧ ps.length = 26 ∧ (ps.map Prod.snd).getLast? = some 1050 ∧
    25 < silence 1076 1050 ∧
    (s.params.validateParity = true → s.params.parity26 = true → w26ParityOk (ps.map Prod.fst) = true) := by decide
theorem witness_Received34BitFrameIsDecoded :
    let ps := trainOf (bitsOf 34 0x3BD5B7DDE)
    let s := State.resetWith parity34
    s.ds = some .reset ∧ DecoderState.reset.Cleared ∧ ps.length = 34 ∧ (ps.map Prod.snd).getLast? = some 1066 ∧
    25 < silence 1092 1066 ∧ (s.params.validateParity = true → w34ParityOk (ps.map Prod.fst) = true) := by decide
theorem witness_OtherWidthsAreDiscarded :
    let ps := trainOf (bitsOf 33 5)
    State.reset.ds = some .reset ∧ DecoderState.reset.Cleared ∧ ps.length < 2 ^ 32 ∧ ps.length ≠ 26 ∧ ps.length ≠ 34 ∧
    25 < silence 1090 ((ps.map Prod.snd).getLastD DecoderState.reset.lastPulseTime) := by decide
/-- The two clauses, on either side of a wrap: a gap of `2^32 + 25` and one of 26. -/
theorem witness_PollSeesTheTrueGapModulo2To32 :
    let d := dec 26 0 0 (BitVec.ofNat 32 4294967290) 0 .unknown
    let s := stateAt noParity (BitVec.ofNat 32 (4294967290 + (2 ^ 32 + 25))) d
    let t := stateAt noParity (BitVec.ofNat 32 (4294967290 + 26)) d
    s.ds = some d ∧ d.lastPulseTime = BitVec.ofNat 32 4294967290 ∧
    s.now = BitVec.ofNat 32 (4294967290 + (2 ^ 32 + 25)) ∧ (2 ^ 32 + 25) % 2 ^ 32 ≤ 25 ∧
    t.ds = some d ∧ t.now = BitVec.ofNat 32 (4294967290 + 26) ∧ 25 < 26 % 2 ^ 32 := by decide
theorem witness_IdleTimeIsUnobservable :
    SameUpToIdleTime { State.reset with inputs := [.event 4 26] }
      { State.reset with inputs := [.event 4 26], ds := some (dec 0 0 0 9 0 .unknown) } ∧
    ∃ t, step { State.reset with inputs := [.event 4 26] } = .next t :=
  ⟨⟨some (dec 0 0 0 9 0 .unknown), rfl, rfl, .inr (by decide)⟩, _, rfl⟩
theorem witness_GetCodeReturnsTheCredential :
    (State.powerOn noParity).ds = none ∧ (stateAt noParity 0 d34).ds = some d34 := by decide
theorem witness_GetCodeBytesAreBigEndian :
    (State.powerOn noParity).ds = none ∧ (stateAt noParity 0 d34).ds = some d34 := by decide
/-- One witness a clause: the three widths. -/
theorem witness_GetWidthReturnsTheWidth :
    (State.powerOn noParity).ds = none ∧
    [dec 0 0 0 0 0 .unknown, dec 0 0 0 0 0 .w26, dec 0 0 0 0 0 .w34].all
      (fun d => (stateAt noParity 0 d).ds == some d) = true := by decide
theorem witness_OnlyInitAndSuccessWriteTheCredential :
    (stateAt noParity 1075 d26).ds = some d26 ∧ ∃ t, exec .poll (stateAt noParity 1075 d26) = .next t := ⟨rfl, _, rfl⟩
theorem witness_OnlyPulsesPollAndInitWriteTheAccumulators :
    (stateAt noParity 1076 d26).ds = some d26 ∧ ∃ t, exec .poll (stateAt noParity 1076 d26) = .next t := ⟨rfl, _, rfl⟩
theorem witness_OnlyPulsesAndPollReadTheTime :
    (State.reset.offerWord (encode .poll)).inputs = .event (encode .poll) 0 :: [] ∧
    (Instr.getCode ≠ .pulseD0 ∧ Instr.getCode ≠ .pulseD1 ∧ Instr.getCode ≠ .poll ∧
      ∃ t, exec .getCode (stateAt noParity 7 d34) = .next t) ∧
    (stateAt noParity 7 d34).ds = some d34 := ⟨rfl, ⟨by decide, by decide, by decide, _, rfl⟩, rfl⟩
theorem witness_CredentialPersistsUntilTheNextSuccess :
    State.reset.ds = some .reset ∧ (∃ t, runEvents [⟨.getCode, 0⟩] State.reset = .next t) ∧
    (∀ e ∈ [(⟨.getCode, 0⟩ : TimedEvent)], e.instr ≠ .init) ∧
    ∀ n u, 0 < n → n ≤ [(⟨.getCode, 0⟩ : TimedEvent)].length →
      runSteps n { State.reset with inputs := [(⟨.getCode, 0⟩ : TimedEvent)].map TimedEvent.toInput } = .next u →
      u.result ≠ .available true := by
  refine ⟨rfl, ⟨_, rfl⟩, by decide, fun n u h0 h1 h => ?_⟩
  obtain rfl : n = 1 := Nat.le_antisymm h1 h0
  cases h
  decide
theorem witness_DecoderNeverReadsTx :
    ∃ t, step { State.reset with inputs := [.event 2 1] } = .next t := ⟨_, rfl⟩
/-- One witness a clause: a reserved byte and a plain one. -/
theorem witness_EscapeRule :
    ((1 : Byte).toNat = 1 ∨ (1 : Byte).toNat = 4 ∨ (1 : Byte).toNat = 10) ∧
    ¬((21 : Byte).toNat = 1 ∨ (21 : Byte).toNat = 4 ∨ (21 : Byte).toNat = 10) := by decide
/-- V-SND-2: body `02 02 00 00 00 00 00`, checksum 4. -/
theorem witness_SendEmitsTheFrame :
    let p : FramePayload := ⟨2, 2, 0, 0, 0, 0, 0⟩
    let body : List Byte := [2, 2, 0, 0, 0, 0, 0]
    (State.powerOn noParity).ds = none ∧ State.reset.ds = some .reset ∧
    body = escapeByte p.deviceId ++ escapeByte p.counterHigh ++ escapeByte p.counterLow ++ escapeByte p.cred3 ++
      escapeByte p.cred2 ++ escapeByte p.cred1 ++ escapeByte p.cred0 ∧
    (4 : Byte).toNat = (body.map BitVec.toNat).sum % 256 := by decide
theorem witness_FrameLengthIs10To17 : 10 ≤ 10 ∧ 10 ≤ 17 ∧ 17 ≤ 17 := by decide
/-- A frame with a 10 inside: V-SND-3. -/
theorem witness_FrameIsDelimited :
    (frame ⟨0xFF, 0x02, 0, 0, 0, 0, 0⟩) = [1] ++ [0xFF, 2, 0, 0, 0, 0, 0, 10, 21] ++ [4] ∧
    ([0xFF, 2, 0, 0, 0, 0, 0, 10, 21] : List Byte)[7]? = some 10 := by decide
theorem witness_WireBytesDetermineThePayloads :
    [(⟨1, 2, 3, 4, 5, 6, 7⟩ : FramePayload)].flatMap frame = [⟨1, 2, 3, 4, 5, 6, 7⟩].flatMap frame := by decide
theorem witness_SendrecCarriesTheCodeBytes : (stateAt noParity 0 d34).ds = some d34 := by decide
theorem witness_EncodeAfterDecode : decode 0x0000000000000004 = .ok .poll := by decide
theorem witness_DecoderAgreesWithTheOpcodeTable :
    (⟨"SEND", 0x0000000000000008, 0x00000000000000FF⟩ : OpcodeRow) ∈ opcodeTable := by decide
theorem witness_SendOperandFields :
    decode 0xFFFFFFFFFFFFFF08 = .ok (.send ⟨0xFF, 0xFF, 0xFF, 0xFF, 0xFF, 0xFF, 0xFF⟩) ∧ 0 < 7 ∧ 6 < 7 := by decide
theorem witness_WframeExpandsToPulses : [true, false, true][2]? = some true := by decide
theorem witness_StepRunsTheDecodedEvent :
    let s : State := { State.reset with inputs := [.event 3 9] }
    s.inputs = .event 3 9 :: [] ∧ decode 3 = .ok .pulseD1 := by decide
/-- One witness a clause. -/
theorem witness_StepRefusesReservedWords :
    let s : State := { State.reset with inputs := [.event 9 9] }
    s.inputs = .event 9 9 :: [] ∧ decode 9 = .error .opcode ∧ State.reset.inputs = [] := by decide
theorem witness_StepRefusesForTwoReasonsOnly :
    step { State.reset with inputs := [.event 9 9] } = .refused (.reservedEvent .opcode) := rfl
theorem witness_EveryEventCompletesAfterInit : State.reset.ds ≠ none ∧ State.reset.inputs = [] := by decide
theorem witness_ParametersNeverChange :
    ∃ t, step { State.reset with inputs := [.cycle (pins true false false false false false 0)] } = .next t := ⟨_, rfl⟩
/-- A state with a frame on the wire and one being emitted meets the invariant. -/
theorem witness_EveryStepKeepsTheInvariant :
    let s : State := { stateAt noParity 0 d26 with
      tx := frame ⟨1, 2, 3, 4, 5, 6, 7⟩, port := busyPort, inputs := [.event 3 9] }
    s.Inv ∧ ∃ t, step s = .next t := by
  refine ⟨⟨fun d h => ?_, ⟨[⟨1, 2, 3, 4, 5, 6, 7⟩], by decide⟩, fun e h => ?_⟩, _, rfl⟩
  · cases h; decide
  · cases h; exact ⟨⟨⟨0, 0, 0, 0, 0, 0, 0⟩, rfl⟩, by decide, [], by decide⟩
theorem witness_ClockEdgeRefinesItsEvents :
    let s : State := { stateAt noParity 0 d26 with port := busyPort }
    s.ds = some d26 ∧ s.port.WF ∧
    ¬((pins false true true true true true 0).init = true ∧ s.port.busy = true) := by
  refine ⟨rfl, fun e h => ?_, by decide⟩
  cases h
  exact ⟨⟨⟨0, 0, 0, 0, 0, 0, 0⟩, rfl⟩, by decide, [], by decide⟩
theorem witness_AcceptedRequestDeliversItsFrame :
    State.reset.ds = some .reset ∧ State.reset.port.busy = false ∧
    (pins false false false false true false 0).init = false ∧
    (pins false false false false true false 0).sendReq = true ∧
    ∀ q ∈ [pins false true false true false true 0], q.init = false ∧ q.sendReq = false := by decide
theorem witness_RequestWhileBusyIsIgnored :
    let s : State := { stateAt noParity 0 d26 with port := busyPort }
    s.ds = some d26 ∧ s.port.busy = true := by decide
/-- Inside the frame, and at the boundary: its last byte offered. -/
theorem witness_InitPinCutsTheFrame :
    (pins true false false false false true 0).init = true ∧ (pins true false false false false true 0).txReady = true ∧
    ∀ idx ∈ [1, 9],
      let buf := frame ⟨0, 0, 0, 0, 0, 0, 0⟩
      let p : PortState := ⟨some ⟨buf, idx⟩, none, buf.take idx⟩
      p.WF ∧ p.emission = some ⟨buf, idx⟩ ∧ idx < buf.length ∧ buf[9]? = some Config.stop := by
  refine ⟨by decide, by decide, fun idx h => ?_⟩
  have hl : idx < 10 := by simp at h; omega
  exact ⟨fun e he => by cases he; exact ⟨⟨_, rfl⟩, hl, [], rfl⟩, rfl, hl, by decide⟩
theorem witness_GettersSampleTheOutputs : ∃ o, Port.outputs (stateAt noParity 0 d26) = some o := ⟨_, rfl⟩
theorem witness_OutputsChangeOnlyAtInitOrSuccess :
    ∃ t o o', Port.outputs (stateAt noParity 0 d26) = some o ∧
      step { stateAt noParity 0 d26 with inputs := [.cycle (pins false false false true false false 1076)] } = .next t ∧
      Port.outputs t = some o' := ⟨_, _, _, rfl, rfl, rfl⟩
theorem witness_PollDoneFollowsPollRequest :
    (stateAt noParity 0 d26).ds = some d26 ∧ (pins false false false true false false 1076).init = false ∧
    (pins false false false true false false 1076).pollReq = true := by decide
/-- Both clauses: an edge that asks for a POLL, and a quiet one. -/
theorem witness_EdgesBeforeInitAreRefused :
    (State.powerOn noParity).ds = none ∧ (pins false false false true false false 0).init = false ∧
    (pins false false false true false false 0).pollReq = true ∧
    (pins false false false false false false 0).quiet = true := by decide

end Sys2Proof.Tests
end

/-! PROOFS of the family 00_scope.md: the two records of emitted bytes, `tx` and `port.taken`, are extended by
steps and never decide one (R2, 43_frame_encoder.md R140). -/

namespace Sys2Proof.Machine

/-! ## The next input, once for every step -/

theorem step_of_nextInput_some {s : State} {x : Input} (h : s.nextInput = some x) :
    step s = runInput x s.dropInput := by
  simp [step, runNextInput, h]

theorem step_of_nextInput_none {s : State} (h : s.nextInput = none) : step s = .next s.dropInput := by
  simp [step, runNextInput, h]

/-! ## What a clock edge can do -/

/-- What an edge without `init` answers on a decoder state `d` (30_encoding.md R91, R95). -/
def afterEdge (pins : PortPins) (s : State) (d : DecoderState) : State :=
  { s with
    ds := some (d.edge s.params pins).1
    port := { s.port.encoderEdge pins with pollReply := (d.edge s.params pins).2 } }

theorem clockEdge_of_init {pins : PortPins} {s : State} (hi : pins.init = true) :
    clockEdge pins s = .next (s.initEdge pins) := by
  simp [clockEdge, hi]

theorem clockEdge_of_quiet {pins : PortPins} {s : State} (hi : pins.init = false) (hd : s.ds = none)
    (hq : pins.quiet = true) : clockEdge pins s = .next s := by
  simp [clockEdge, hi, hd, hq]

theorem clockEdge_of_decoder {pins : PortPins} {s : State} {d : DecoderState} (hi : pins.init = false)
    (hd : s.ds = some d) : clockEdge pins s = .next (afterEdge pins s d) := by
  simp [clockEdge, hi, hd, afterEdge]

theorem clockEdge_of_beforeInit {pins : PortPins} {s : State} (hi : pins.init = false) (hd : s.ds = none)
    (hq : pins.quiet = false) : clockEdge pins s = .refused .beforeInit := by
  simp [clockEdge, hi, hd, hq]

/-- Everything an edge can do when it answers a next state. -/
theorem clockEdge_next_cases {pins : PortPins} {s t : State} (h : clockEdge pins s = .next t) :
    (pins.init = true ∧ t = s.initEdge pins) ∨
    (pins.init = false ∧ s.ds = none ∧ pins.quiet = true ∧ t = s) ∨
    (pins.init = false ∧ ∃ d, s.ds = some d ∧ t = afterEdge pins s d) := by
  cases hi : pins.init with
  | true =>
    rw [clockEdge_of_init hi] at h
    cases h
    exact .inl ⟨rfl, rfl⟩
  | false =>
    cases hd : s.ds with
    | some d =>
      rw [clockEdge_of_decoder hi hd] at h
      cases h
      exact .inr (.inr ⟨rfl, d, rfl, rfl⟩)
    | none =>
      cases hq : pins.quiet with
      | true =>
        rw [clockEdge_of_quiet hi hd hq] at h
        cases h
        exact .inr (.inl ⟨rfl, rfl, rfl, rfl⟩)
      | false =>
        rw [clockEdge_of_beforeInit hi hd hq] at h
        cases h

/-! ## The records of emitted bytes replaced -/

/-- The port with other bytes as those the transport has taken. -/
def PortState.withTaken (p : PortState) (ys : List Byte) : PortState := { p with taken := ys }

/-- The state with other emitted bytes: `xs` by SEND, `ys` taken at the port level (log 8). -/
def State.withEmitted (s : State) (xs ys : List Byte) : State := { s with tx := xs, port := s.port.withTaken ys }

@[simp] theorem PortState.withTaken_emission (p : PortState) (ys : List Byte) :
    (p.withTaken ys).emission = p.emission := rfl

@[simp] theorem State.withEmitted_ds (s : State) (xs ys : List Byte) : (s.withEmitted xs ys).ds = s.ds := rfl

@[simp] theorem State.withEmitted_port (s : State) (xs ys : List Byte) :
    (s.withEmitted xs ys).port = s.port.withTaken ys := rfl

@[simp] theorem State.withEmitted_nextInput (s : State) (xs ys : List Byte) :
    (s.withEmitted xs ys).nextInput = s.nextInput := rfl

theorem State.withEmitted_atTime (s : State) (xs ys : List Byte) (now : Time) :
    (s.withEmitted xs ys).atTime now = (s.atTime now).withEmitted xs ys := rfl

theorem State.withEmitted_dropInput (s : State) (xs ys : List Byte) :
    (s.withEmitted xs ys).dropInput = s.dropInput.withEmitted xs ys := by
  cases h : s.inputs <;> simp [State.dropInput, State.withEmitted, h]

/-! ## The encoder -/

/-- The bytes already taken do not decide which byte is taken next: the new one follows them, whatever they are. -/
theorem PortState.withTaken_takeByte (p : PortState) (ys : List Byte) :
    (p.withTaken ys).takeByte = p.takeByte.withTaken (ys ++ p.txData.toList) := rfl

theorem PortState.withTaken_takeCut (p : PortState) (ys : List Byte) (r : Bool) :
    ∃ ys', (p.withTaken ys).takeCut r = (p.takeCut r).withTaken ys' := by
  unfold PortState.takeCut
  rw [PortState.withTaken_emission]
  split
  · split
    · exact ⟨_, p.withTaken_takeByte ys⟩
    · exact ⟨ys, rfl⟩
  · exact ⟨ys, rfl⟩

theorem PortState.withTaken_encoderEdge (p : PortState) (ys : List Byte) (pins : PortPins) :
    ∃ ys', (p.withTaken ys).encoderEdge pins = (p.encoderEdge pins).withTaken ys' := by
  unfold PortState.encoderEdge
  rw [PortState.withTaken_emission]
  split
  · split <;> exact ⟨ys, rfl⟩
  · split
    · exact ⟨ys ++ p.txData.toList, rfl⟩
    · exact ⟨ys, rfl⟩

/-! ## Every way of answering a state ignores the records -/

/-- Where `f` answers a next state, it answers the same one, up to the emitted bytes, from other emitted bytes. -/
def IgnoresEmitted (f : State → Answer) : Prop :=
  ∀ (s t : State) (xs ys : List Byte), f s = .next t →
    ∃ xs' ys', f (s.withEmitted xs ys) = .next (t.withEmitted xs' ys')

/-- SEND alone extends a record, and it does so without reading it. -/
theorem afterEvent_withEmitted (i : Instr) (s : State) (d : DecoderState) (xs ys : List Byte) :
    ∃ xs', afterEvent i (s.withEmitted xs ys) d = (afterEvent i s d).withEmitted xs' ys := by
  cases i with
  | send p => exact ⟨xs ++ frame p, rfl⟩
  | _ => exact ⟨xs, rfl⟩

theorem exec_ignoresEmitted (i : Instr) : IgnoresEmitted (exec i) := by
  intro s t xs ys h
  obtain ⟨rfl, rfl⟩ | ⟨d, hd, rfl⟩ := exec_next_cases h
  · exact ⟨xs, ys, rfl⟩
  · obtain ⟨xs', hx⟩ := afterEvent_withEmitted i s d xs ys
    exact ⟨xs', ys, by rw [exec_afterInit (by simpa using hd) i, hx]⟩

theorem runEvent_ignoresEmitted (w : EventWord) (now : Time) : IgnoresEmitted (runEvent w now) := by
  intro s t xs ys h
  unfold runEvent at h ⊢
  split at h
  · cases h
  · rw [State.withEmitted_atTime]
    exact exec_ignoresEmitted _ _ _ xs ys h

theorem initEdge_withEmitted (pins : PortPins) (s : State) (xs ys : List Byte) :
    ∃ ys', (s.withEmitted xs ys).initEdge pins = (s.initEdge pins).withEmitted xs ys' := by
  obtain ⟨ys', hy⟩ := s.port.withTaken_takeCut ys pins.txReady
  exact ⟨ys', by simp only [State.initEdge, State.withEmitted_port, hy]; rfl⟩

theorem afterEdge_withEmitted (pins : PortPins) (s : State) (d : DecoderState) (xs ys : List Byte) :
    ∃ ys', afterEdge pins (s.withEmitted xs ys) d = (afterEdge pins s d).withEmitted xs ys' := by
  obtain ⟨ys', hy⟩ := s.port.withTaken_encoderEdge ys pins
  exact ⟨ys', by simp only [afterEdge, State.withEmitted_port, hy]; rfl⟩

theorem clockEdge_ignoresEmitted (pins : PortPins) : IgnoresEmitted (clockEdge pins) := by
  intro s t xs ys h
  obtain ⟨hi, rfl⟩ | ⟨hi, hd, hq, rfl⟩ | ⟨hi, d, hd, rfl⟩ := clockEdge_next_cases h
  · obtain ⟨ys', hy⟩ := initEdge_withEmitted pins s xs ys
    exact ⟨xs, ys', by rw [clockEdge_of_init hi, hy]⟩
  · exact ⟨xs, ys, clockEdge_of_quiet hi (by simpa using hd) hq⟩
  · obtain ⟨ys', hy⟩ := afterEdge_withEmitted pins s d xs ys
    exact ⟨xs, ys', by rw [clockEdge_of_decoder hi (by simpa using hd), hy]⟩

theorem runInput_ignoresEmitted (x : Input) : IgnoresEmitted (runInput x) := by
  cases x with
  | event w now => exact runEvent_ignoresEmitted w now
  | cycle pins => exact fun s t xs ys h => clockEdge_ignoresEmitted pins (s.atTime pins.nowMs) t xs ys h

/-- The next input is the same, and whatever it is, its effect ignores the records. -/
theorem step_ignoresEmitted : IgnoresEmitted step := by
  intro s t xs ys h
  cases hx : s.nextInput with
  | none =>
    rw [step_of_nextInput_none hx] at h
    cases h
    exact ⟨xs, ys, by rw [step_of_nextInput_none (by simpa using hx), State.withEmitted_dropInput]⟩
  | some x =>
    rw [step_of_nextInput_some hx] at h
    rw [step_of_nextInput_some (x := x) (by simpa using hx), State.withEmitted_dropInput]
    exact runInput_ignoresEmitted x _ t xs ys h

/-- Settles O30: neither which input comes next nor what it does depends on the emitted bytes. -/
theorem decoderNeverReadsTx : Obligations.DecoderNeverReadsTx :=
  step_ignoresEmitted

end Sys2Proof.Machine

/-! PROOFS of the family 10_state.md: which events write which register (R27, R28, R31, R39, R40), that the idle time
cannot be observed (R38), and the invariant (R29). -/

namespace Sys2Proof.Machine

/-! ## What a step that goes on has done -/

/-- A step that answers a next state took no input, ran an event, or ran a clock edge. -/
theorem step_next_cases {s t : State} (h : step s = .next t) :
    t = s.dropInput ∨
    (∃ i now, exec i (s.dropInput.atTime now) = .next t) ∨
    ∃ pins, clockEdge pins (s.dropInput.atTime pins.nowMs) = .next t := by
  cases hx : s.nextInput with
  | none =>
    rw [step_of_nextInput_none hx] at h
    cases h
    exact .inl rfl
  | some x =>
    rw [step_of_nextInput_some hx] at h
    cases x with
    | cycle pins => exact .inr (.inr ⟨pins, h⟩)
    | event w now =>
      simp only [runInput, runEvent] at h
      split at h
      · cases h
      · exact .inr (.inl ⟨_, now, h⟩)

/-! ## Reset and the parameters -/

/-- Settles O1: every field of the reset state is the one INIT computes. -/
theorem resetIsInitAtPowerUp : Obligations.ResetIsInitAtPowerUp :=
  ⟨fun _ => ⟨rfl, rfl, rfl, rfl, rfl⟩, rfl⟩

theorem afterEvent_params (i : Instr) (s : State) (d : DecoderState) : (afterEvent i s d).params = s.params := by
  cases i <;> rfl

theorem exec_keeps_params {i : Instr} {s t : State} (h : exec i s = .next t) : t.params = s.params := by
  obtain ⟨-, rfl⟩ | ⟨d, -, rfl⟩ := exec_next_cases h
  · rfl
  · exact afterEvent_params i s d

theorem clockEdge_keeps_params {pins : PortPins} {s t : State} (h : clockEdge pins s = .next t) :
    t.params = s.params := by
  obtain ⟨-, rfl⟩ | ⟨-, -, -, rfl⟩ | ⟨-, d, -, rfl⟩ := clockEdge_next_cases h <;> rfl

/-- Settles O50: neither an event nor a clock edge writes the parameters. -/
theorem parametersNeverChange : Obligations.ParametersNeverChange := by
  intro s t h
  obtain rfl | ⟨i, now, h⟩ | ⟨pins, h⟩ := step_next_cases h
  · exact s.dropInput_params
  · simpa using exec_keeps_params h
  · simpa using clockEdge_keeps_params h

/-! ## Before the first INIT -/

@[simp] theorem payloadOfOperand_operandOfPayload (p : FramePayload) :
    payloadOfOperand (operandOfPayload p) = p := by
  obtain ⟨b0, b1, b2, b3, b4, b5, b6⟩ := p
  simp only [payloadOfOperand, operandOfPayload, FramePayload.mk.injEq]
  refine ⟨?_, ?_, ?_, ?_, ?_, ?_, ?_⟩ <;>
    simp only [BitVec.extractLsb'_append_eq_of_le, BitVec.extractLsb'_append_eq_right, Nat.reduceLeDiff,
      Nat.reduceSub, BitVec.extractLsb'_eq_self]

/-- The fields of SEND's word (30_encoding.md R66, R67). -/
theorem fields_encode_send (p : FramePayload) :
    (encode (.send p)).op = 0x8 ∧ (encode (.send p)).rsv = 0 ∧
      (encode (.send p)).operand = operandOfPayload p := by
  refine ⟨?_, ?_, BitVec.extractLsb'_append_eq_left⟩
  · exact BitVec.extractLsb'_append_eq_of_add_le (by decide)
  · exact BitVec.extractLsb'_append_eq_of_add_le (by decide)

/-- The decoder reads from an event's word that event (30_encoding.md R67, R68). -/
@[simp] theorem decode_encode : ∀ i : Instr, decode (encode i) = .ok i
  | .init => by decide
  | .pulseD0 => by decide
  | .pulseD1 => by decide
  | .poll => by decide
  | .getCode => by decide
  | .getCodeBytes => by decide
  | .getWidth => by decide
  | .send p => by
    obtain ⟨hop, hrsv, hoperand⟩ := fields_encode_send p
    simp [decode, hop, hrsv, hoperand]

theorem runEvent_encode (i : Instr) (now : Time) (s : State) :
    runEvent (encode i) now s = exec i (s.atTime now) := by
  simp [runEvent]

/-- Settles O3: the word decodes to its event, and every meaning but INIT's asks for a decoder. -/
theorem onlyInitRunsBeforeInit : Obligations.OnlyInitRunsBeforeInit := by
  intro i s hd hi
  have refused {u : State} (hu : u.ds = none) : exec i u = .refused .beforeInit :=
    (exec_beforeInit hu i).resolve_left hi
  refine ⟨refused hd, fun now rest hs => ?_⟩
  rw [step_event hs, runEvent_encode]
  exact refused hd

theorem quiet_eq_false_iff {pins : PortPins} : pins.quiet = false ↔
    pins.pollReq = true ∨ pins.d0Pulse = true ∨ pins.d1Pulse = true ∨ pins.sendReq = true ∨ pins.txReady = true := by
  simp only [PortPins.quiet, Bool.not_eq_false', Bool.or_eq_true]
  tauto

/-- Settles O60: without a decoder an edge goes on only if it is quiet, and then it leaves the state as it is. -/
theorem edgesBeforeInitAreRefused : Obligations.EdgesBeforeInitAreRefused := by
  intro s pins rest hd hi
  rw [step_cycle rfl]
  refine ⟨fun h => clockEdge_of_beforeInit hi hd (quiet_eq_false_iff.mpr h), fun hp h0 h1 hs ht => ?_⟩
  exact clockEdge_of_quiet hi hd (by simp [PortPins.quiet, hp, h0, h1, hs, ht])

/-! ## Who writes the credential and the accumulators -/

/-- A POLL that is not available leaves the credential and its width (R28, 41_resolution.md R119). -/
theorem poll_credential (p : Params) (now : Time) (d : DecoderState) :
    (d.poll p now).2.available = true ∨
    ((d.poll p now).1.decodedCode = d.decodedCode ∧ (d.poll p now).1.decodedWidth = d.decodedWidth) := by
  obtain ⟨-, h⟩ | ⟨-, ⟨-, -, h⟩ | ⟨-, -, h⟩ | ⟨-, h⟩ | ⟨-, -, h⟩⟩ := poll_cases p now d <;> rw [h]
  · exact .inr ⟨rfl, rfl⟩
  · exact .inl rfl
  · exact .inl rfl
  · exact .inr ⟨rfl, rfl⟩
  · exact .inr ⟨rfl, rfl⟩

/-- A POLL that resolves clears the accumulators, and a pending one writes nothing (41_resolution.md R111). -/
theorem poll_cleared_or_unchanged (p : Params) (now : Time) (d : DecoderState) :
    (d.poll p now).1.Cleared ∨ (d.poll p now).1 = d := by
  obtain ⟨-, h⟩ | ⟨-, ⟨-, -, h⟩ | ⟨-, -, h⟩ | ⟨-, h⟩ | ⟨-, -, h⟩⟩ := poll_cases p now d <;> rw [h]
  · exact .inr rfl
  all_goals exact .inl ⟨rfl, rfl, rfl⟩

theorem eq_afterEvent {i : Instr} {s t : State} {d : DecoderState} (hd : s.ds = some d) (h : exec i s = .next t) :
    t = afterEvent i s d := by
  rw [exec_afterInit hd] at h
  cases h
  rfl

/-- Settles O26: of the events other than INIT only POLL touches the two registers, and only where it succeeds. -/
theorem onlyInitAndSuccessWriteTheCredential : Obligations.OnlyInitAndSuccessWriteTheCredential := by
  intro i s t d hd h
  obtain rfl := eq_afterEvent hd h
  cases i with
  | init => exact .inl rfl
  | poll =>
    obtain ha | hk := poll_credential s.params s.now d
    · exact .inr (.inl ⟨rfl, congrArg Result.available ha⟩)
    · exact .inr (.inr ⟨_, rfl, hk⟩)
  | pulseD0 | pulseD1 => exact .inr (.inr ⟨_, rfl, rfl, rfl⟩)
  | _ => exact .inr (.inr ⟨d, hd, rfl, rfl⟩)

/-- Settles O27: INIT and a resolving POLL clear the accumulators, a pending POLL, the getters and SEND leave them. -/
theorem onlyPulsesPollAndInitWriteTheAccumulators : Obligations.OnlyPulsesPollAndInitWriteTheAccumulators := by
  intro i s t d hd h
  obtain rfl := eq_afterEvent hd h
  cases i with
  | init => exact ⟨.reset, rfl, .inr (.inr (.inl ⟨rfl, rfl, rfl, rfl⟩))⟩
  | pulseD0 => exact ⟨_, rfl, .inl rfl⟩
  | pulseD1 => exact ⟨_, rfl, .inr (.inl rfl)⟩
  | poll =>
    refine ⟨_, rfl, .inr (.inr (.inr ?_))⟩
    obtain hc | hu := poll_cleared_or_unchanged s.params s.now d
    · exact .inl ⟨rfl, hc⟩
    · exact .inr ⟨by decide, by rw [hu]; exact ⟨rfl, rfl, rfl⟩⟩
  | _ => exact ⟨d, hd, .inr (.inr (.inr (.inr ⟨by simp, rfl, rfl, rfl⟩)))⟩

/-! ## One edge as optional events

What an edge does to the decoder, one event at a time, so that a fact about POLL and the pulses is one about the
edge. -/

/-- POLL, where the edge asks for it. -/
def DecoderState.pollIf (c : Bool) (p : Params) (now : Time) (d : DecoderState) : DecoderState :=
  if c then (d.poll p now).1 else d

/-- A pulse, where the line has one. -/
def DecoderState.pulseIf (c b : Bool) (now : Time) (d : DecoderState) : DecoderState :=
  if c then d.pulse b now else d

theorem edge_decoder (p : Params) (pins : PortPins) (d : DecoderState) :
    (d.edge p pins).1 = ((d.pollIf pins.pollReq p pins.nowMs).pulseIf pins.d0Pulse false pins.nowMs).pulseIf
      pins.d1Pulse true pins.nowMs := by
  cases h : pins.pollReq <;> simp [DecoderState.edge, DecoderState.pollIf, DecoderState.pulseIf, h]

theorem edge_reply (p : Params) (pins : PortPins) (d : DecoderState) :
    (d.edge p pins).2 = if pins.pollReq then some (d.poll p pins.nowMs).2.available else none := by
  cases h : pins.pollReq <;> simp [DecoderState.edge, h]

/-! ## The idle time cannot be observed -/

/-- The decoder with another time as that of its last pulse. -/
def DecoderState.retime (d : DecoderState) (x : Time) : DecoderState := { d with lastPulseTime := x }

/-- `SameUpToIdleTime` on the decoder alone. -/
def DecoderState.SameUpToIdleTime (d e : DecoderState) : Prop :=
  e = d ∨ d.Cleared ∧ ∃ x, e = d.retime x

theorem sameUpToIdleTime_refl (s : State) : SameUpToIdleTime s s :=
  ⟨s.ds, rfl, by cases s.ds <;> simp⟩

theorem sameUpToIdleTime_setDecoder {s : State} {d e : DecoderState} (hd : s.ds = some d)
    (h : d.SameUpToIdleTime e) : SameUpToIdleTime s (s.setDecoder e) := by
  refine ⟨some e, rfl, ?_⟩
  rw [hd]
  obtain rfl | ⟨hc, x, rfl⟩ := h
  · exact ⟨rfl, .inl rfl⟩
  · exact ⟨rfl, .inr hc⟩

/-- Two related states are equal, or they differ in a decoder, and its two values are related. -/
theorem sameUpToIdleTime_cases {s t : State} (h : SameUpToIdleTime s t) :
    t = s ∨ ∃ d e, s.ds = some d ∧ d.SameUpToIdleTime e ∧ t = s.setDecoder e := by
  obtain ⟨x, rfl, h⟩ := h
  split at h
  case h_1 hs => exact .inl (by rw [← hs])
  case h_2 d e hs =>
    obtain ⟨he, ht⟩ := h
    refine .inr ⟨d, e, hs, ?_, rfl⟩
    obtain ht | hc := ht
    · exact .inl (by rw [he, ← ht])
    · exact .inr ⟨hc, _, he⟩
  case h_3 => exact h.elim

namespace DecoderState

theorem clear_of_cleared {d : DecoderState} (h : d.Cleared) : d.clear = d := by
  obtain ⟨count, low, high, last, code, width⟩ := d
  obtain ⟨rfl, rfl, rfl⟩ : count = 0 ∧ low = 0 ∧ high = 0 := h
  rfl

/-- With cleared accumulators POLL is pending or finds noise: it is not available, and it writes at most the time of
the last pulse. -/
theorem poll_of_cleared (p : Params) (now : Time) {d : DecoderState} (h : d.Cleared) :
    (∃ x, (d.poll p now).1 = d.retime x) ∧ (d.poll p now).2.available = false := by
  have h0 : d.bitCount = 0 := h.1
  obtain ⟨-, hp⟩ | ⟨-, ⟨h26, -⟩ | ⟨h34, -⟩ | ⟨⟨h26, -⟩ | ⟨h34, -⟩, -⟩ | ⟨-, -, hp⟩⟩ := poll_cases p now d
  · rw [hp]; exact ⟨⟨d.lastPulseTime, rfl⟩, rfl⟩
  · simp [h0] at h26
  · simp [h0] at h34
  · simp [h0] at h26
  · simp [h0] at h34
  · rw [hp, clear_of_cleared h]; exact ⟨⟨now, rfl⟩, rfl⟩

namespace SameUpToIdleTime

variable {d e : DecoderState}

theorem refl (d : DecoderState) : d.SameUpToIdleTime d := .inl rfl

theorem decodedCode_eq (h : d.SameUpToIdleTime e) : e.decodedCode = d.decodedCode := by
  obtain rfl | ⟨-, x, rfl⟩ := h <;> rfl

theorem decodedWidth_eq (h : d.SameUpToIdleTime e) : e.decodedWidth = d.decodedWidth := by
  obtain rfl | ⟨-, x, rfl⟩ := h <;> rfl

/-- A pulse writes the time, whatever it was. -/
theorem pulse_eq (h : d.SameUpToIdleTime e) (b : Bool) (now : Time) : e.pulse b now = d.pulse b now := by
  obtain rfl | ⟨-, x, rfl⟩ := h <;> rfl

theorem poll_available (h : d.SameUpToIdleTime e) (p : Params) (now : Time) :
    (e.poll p now).2.available = (d.poll p now).2.available := by
  obtain rfl | ⟨hc, x, rfl⟩ := h
  · rfl
  · rw [(poll_of_cleared p now hc).2, (poll_of_cleared p now (d := d.retime x) hc).2]

theorem poll (h : d.SameUpToIdleTime e) (p : Params) (now : Time) :
    (d.poll p now).1.SameUpToIdleTime (e.poll p now).1 := by
  obtain rfl | ⟨hc, x, rfl⟩ := h
  · exact refl _
  · obtain ⟨⟨y, hy⟩, -⟩ := poll_of_cleared p now hc
    obtain ⟨⟨z, hz⟩, -⟩ := poll_of_cleared p now (d := d.retime x) hc
    rw [hy, hz]
    exact .inr ⟨hc, z, rfl⟩

theorem pollIf (h : d.SameUpToIdleTime e) (c : Bool) (p : Params) (now : Time) :
    (d.pollIf c p now).SameUpToIdleTime (e.pollIf c p now) := by
  cases c
  · exact h
  · exact h.poll p now

theorem pulseIf (h : d.SameUpToIdleTime e) (c b : Bool) (now : Time) :
    (d.pulseIf c b now).SameUpToIdleTime (e.pulseIf c b now) := by
  cases c
  · exact h
  · exact .inl (h.pulse_eq b now)

theorem edge (h : d.SameUpToIdleTime e) (p : Params) (pins : PortPins) :
    (d.edge p pins).1.SameUpToIdleTime (e.edge p pins).1 := by
  rw [edge_decoder, edge_decoder]
  exact ((h.pollIf _ p _).pulseIf _ _ _).pulseIf _ _ _

theorem edge_reply_eq (h : d.SameUpToIdleTime e) (p : Params) (pins : PortPins) :
    (e.edge p pins).2 = (d.edge p pins).2 := by
  rw [edge_reply, edge_reply, h.poll_available]

end SameUpToIdleTime

end DecoderState

theorem afterEvent_sameUpToIdleTime (i : Instr) {s : State} {d e : DecoderState} (hd : s.ds = some d)
    (h : d.SameUpToIdleTime e) : SameUpToIdleTime (afterEvent i s d) (afterEvent i (s.setDecoder e) e) := by
  cases i with
  | init => exact sameUpToIdleTime_refl _
  | pulseD0 | pulseD1 =>
    simp only [afterEvent, State.setDecoder_now, h.pulse_eq]
    exact sameUpToIdleTime_refl _
  | poll =>
    simp only [afterEvent, State.setDecoder_now, State.setDecoder_params, h.poll_available]
    exact sameUpToIdleTime_setDecoder rfl (h.poll s.params s.now)
  | getCode | getCodeBytes =>
    simp only [afterEvent, h.decodedCode_eq]
    exact sameUpToIdleTime_setDecoder hd h
  | getWidth =>
    simp only [afterEvent, h.decodedWidth_eq]
    exact sameUpToIdleTime_setDecoder hd h
  | send p => exact sameUpToIdleTime_setDecoder (s := afterEvent (.send p) s d) hd h

theorem afterEdge_sameUpToIdleTime (pins : PortPins) (s : State) {d e : DecoderState}
    (h : d.SameUpToIdleTime e) : SameUpToIdleTime (afterEdge pins s d) (afterEdge pins (s.setDecoder e) e) := by
  simp only [afterEdge, State.setDecoder_params, State.setDecoder_port, h.edge_reply_eq]
  exact sameUpToIdleTime_setDecoder rfl (h.edge s.params pins)

theorem setDecoder_dropInput (s : State) (e : DecoderState) :
    (s.setDecoder e).dropInput = s.dropInput.setDecoder e := by
  cases h : s.inputs <;> simp [State.dropInput, State.setDecoder, h]

/-- Where `f` answers a next state, it answers a related one from a state with a related decoder. -/
def IgnoresIdleTime (f : State → Answer) : Prop :=
  ∀ (s s' : State) (d e : DecoderState), s.ds = some d → d.SameUpToIdleTime e → f s = .next s' →
    ∃ t', f (s.setDecoder e) = .next t' ∧ SameUpToIdleTime s' t'

theorem exec_ignoresIdleTime (i : Instr) : IgnoresIdleTime (exec i) := by
  intro s s' d e hd h hs
  obtain rfl := eq_afterEvent hd hs
  exact ⟨_, exec_afterInit rfl i, afterEvent_sameUpToIdleTime i hd h⟩

theorem runEvent_ignoresIdleTime (w : EventWord) (now : Time) : IgnoresIdleTime (runEvent w now) := by
  intro s s' d e hd h hs
  unfold runEvent at hs ⊢
  split at hs
  · cases hs
  · exact exec_ignoresIdleTime _ (s.atTime now) s' d e hd h hs

theorem clockEdge_ignoresIdleTime (pins : PortPins) : IgnoresIdleTime (clockEdge pins) := by
  intro s s' d e hd h hs
  cases hi : pins.init with
  | true =>
    rw [clockEdge_of_init hi] at hs
    cases hs
    exact ⟨_, clockEdge_of_init hi, sameUpToIdleTime_refl _⟩
  | false =>
    rw [clockEdge_of_decoder hi hd] at hs
    cases hs
    exact ⟨_, clockEdge_of_decoder hi rfl, afterEdge_sameUpToIdleTime pins s h⟩

theorem runInput_ignoresIdleTime (x : Input) : IgnoresIdleTime (runInput x) := by
  cases x with
  | event w now => exact runEvent_ignoresIdleTime w now
  | cycle pins => exact fun s s' d e hd => clockEdge_ignoresIdleTime pins (s.atTime pins.nowMs) s' d e hd

theorem step_ignoresIdleTime : IgnoresIdleTime step := by
  intro s s' d e hd h hs
  have hd' : s.dropInput.ds = some d := by simpa using hd
  cases hx : s.nextInput with
  | none =>
    rw [step_of_nextInput_none hx] at hs
    cases hs
    refine ⟨_, step_of_nextInput_none hx, ?_⟩
    rw [setDecoder_dropInput]
    exact sameUpToIdleTime_setDecoder hd' h
  | some x =>
    rw [step_of_nextInput_some hx] at hs
    rw [step_of_nextInput_some (s := s.setDecoder e) hx, setDecoder_dropInput]
    exact runInput_ignoresIdleTime x _ s' d e hd' h hs

/-- Settles O22: a pulse overwrites the idle time, a POLL on cleared accumulators answers false whatever it is, and
nothing else reads it. -/
theorem idleTimeIsUnobservable : Obligations.IdleTimeIsUnobservable := by
  intro s t s' h hs
  obtain rfl | ⟨d, e, hd, he, rfl⟩ := sameUpToIdleTime_cases h
  · exact ⟨s', hs, sameUpToIdleTime_refl s'⟩
  · exact step_ignoresIdleTime s s' d e hd he hs

/-! ## The invariant: the decoder -/

namespace DecoderState

theorem reset_wf : DecoderState.reset.WF := by decide

/-- The 26-bit branch keeps 24 bits of `low_bits` (R25). -/
theorem code26_lt (d : DecoderState) : (code26 d).toNat < 2 ^ 24 := by
  have h : (frame26 d &&& 0x1FFFFFE).toNat ≤ 0x1FFFFFE := by
    rw [BitVec.toNat_and]
    exact Nat.and_le_right
  rw [code26, BitVec.toNat_ushiftRight, Nat.shiftRight_eq_div_pow]
  omega

namespace WF

variable {d : DecoderState}

theorem pulse (h : d.WF) (b : Bool) (now : Time) : (d.pulse b now).WF := by
  obtain ⟨-, hcode, hunknown⟩ := h
  exact ⟨by simp, hcode, hunknown⟩

theorem poll (h : d.WF) (p : Params) (now : Time) : (d.poll p now).1.WF := by
  obtain ⟨-, hcode, hunknown⟩ := id h
  obtain ⟨-, hp⟩ | ⟨-, ⟨-, -, hp⟩ | ⟨-, -, hp⟩ | ⟨-, hp⟩ | ⟨-, -, hp⟩⟩ := poll_cases p now d <;> rw [hp]
  · exact h
  · exact ⟨by simp, fun _ => code26_lt d, nofun⟩
  · exact ⟨by simp, nofun, nofun⟩
  · exact ⟨by simp, hcode, hunknown⟩
  · exact ⟨by simp, hcode, hunknown⟩

theorem pollIf (h : d.WF) (c : Bool) (p : Params) (now : Time) : (d.pollIf c p now).WF := by
  cases c
  · exact h
  · exact h.poll p now

theorem pulseIf (h : d.WF) (c b : Bool) (now : Time) : (d.pulseIf c b now).WF := by
  cases c
  · exact h
  · exact h.pulse b now

theorem edge (h : d.WF) (p : Params) (pins : PortPins) : (d.edge p pins).1.WF := by
  rw [edge_decoder]
  exact ((h.pollIf _ p _).pulseIf _ _ _).pulseIf _ _ _

end WF

end DecoderState

/-! ## The invariant: the wire and the encoder -/

theorem WholeFrames.append_frame {tx : List Byte} (h : WholeFrames tx) (p : FramePayload) :
    WholeFrames (tx ++ frame p) := by
  obtain ⟨ps, rfl⟩ := h
  exact ⟨ps ++ [p], by simp⟩

namespace PortState

theorem wf_of_emission_none {p : PortState} (h : p.emission = none) : p.WF := by
  intro e he
  rw [h] at he
  cases he

theorem txData_of_emission {p : PortState} {e : Emission} (he : p.emission = some e) (hlt : e.idx < e.buf.length) :
    p.txData = some e.buf[e.idx] := by
  simp [txData, he, hlt]

/-- The encoder opens a frame with nothing of it taken, and each byte taken goes from `buf` to the end of `taken`. -/
theorem WF.encoderEdge {p : PortState} (h : p.WF) (pins : PortPins) : (p.encoderEdge pins).WF := by
  cases he : p.emission with
  | none =>
    unfold PortState.encoderEdge
    rw [he]
    dsimp only
    split
    · rintro _ ⟨⟩
      exact ⟨⟨_, rfl⟩, by simp [frame], p.taken, by simp⟩
    · exact h
  | some e =>
    obtain ⟨hbuf, hlt, earlier, htaken⟩ := h e he
    unfold PortState.encoderEdge
    rw [he]
    dsimp only
    split
    · split
      case isTrue hnext =>
        rintro _ ⟨⟩
        refine ⟨hbuf, hnext, earlier, ?_⟩
        simp [takeByte, txData_of_emission he hlt, htaken]
      case isFalse => exact wf_of_emission_none rfl
    · exact h

end PortState

/-! ## The invariant of the machine -/

namespace State.Inv

variable {s : State}

/-- The invariant is about the decoder, `tx` and the port alone. -/
theorem of_eq {t : State} (h : s.Inv) (hds : t.ds = s.ds) (htx : t.tx = s.tx) (hport : t.port = s.port) : t.Inv :=
  ⟨by rw [hds]; exact h.decoder, by rw [htx]; exact h.wire, by rw [hport]; exact h.port⟩

theorem setDecoder (h : s.Inv) {d : DecoderState} (hd : d.WF) : (s.setDecoder d).Inv :=
  ⟨by rintro _ ⟨⟩; exact hd, h.wire, h.port⟩

theorem setResult (h : s.Inv) (r : Result) : (s.setResult r).Inv := h.of_eq rfl rfl rfl

theorem emit_frame (h : s.Inv) (p : FramePayload) : (s.emit (frame p)).Inv :=
  ⟨h.decoder, h.wire.append_frame p, h.port⟩

theorem clearPort (h : s.Inv) : s.clearPort.Inv :=
  ⟨h.decoder, h.wire, PortState.wf_of_emission_none rfl⟩

theorem dropInput_atTime (h : s.Inv) (now : Time) : (s.dropInput.atTime now).Inv :=
  h.of_eq s.dropInput_ds s.dropInput_tx s.dropInput_port

theorem afterInit (h : s.Inv) : ((s.setDecoder .reset).clearPort.setResult .nothing).Inv :=
  ((h.setDecoder DecoderState.reset_wf).clearPort).setResult _

theorem afterEvent (h : s.Inv) {d : DecoderState} (hd : d.WF) (i : Instr) : (afterEvent i s d).Inv := by
  cases i with
  | init => exact h.afterInit
  | pulseD0 | pulseD1 => exact (h.setDecoder (hd.pulse _ _)).setResult _
  | poll => exact (h.setDecoder (hd.poll _ _)).setResult _
  | getCode | getCodeBytes | getWidth => exact h.setResult _
  | send p => exact (h.emit_frame p).setResult _

theorem exec (h : s.Inv) {i : Instr} {t : State} (hs : exec i s = .next t) : t.Inv := by
  obtain ⟨-, rfl⟩ | ⟨d, hd, rfl⟩ := exec_next_cases hs
  · exact h.afterInit
  · exact h.afterEvent (h.decoder d hd) i

theorem clockEdge (h : s.Inv) {pins : PortPins} {t : State} (hs : clockEdge pins s = .next t) : t.Inv := by
  obtain ⟨-, rfl⟩ | ⟨-, -, -, rfl⟩ | ⟨-, d, hd, rfl⟩ := clockEdge_next_cases hs
  · exact ⟨by rintro _ ⟨⟩; exact DecoderState.reset_wf, h.wire, PortState.wf_of_emission_none rfl⟩
  · exact h
  · exact ⟨by rintro _ ⟨⟩; exact (h.decoder d hd).edge _ _, h.wire, h.port.encoderEdge pins⟩

end State.Inv

/-- Settles O51: there is no decoder or a reset one, nothing is on the wire and the encoder is idle. -/
theorem invariantHoldsAtReset : Obligations.InvariantHoldsAtReset := by
  intro p
  have hwire : WholeFrames [] := ⟨[], rfl⟩
  have hport : PortState.idle.WF := PortState.wf_of_emission_none rfl
  exact ⟨⟨nofun, hwire, hport⟩, ⟨by rintro _ ⟨⟩; exact DecoderState.reset_wf, hwire, hport⟩⟩

/-- Settles O52: taking an input leaves the invariant's fields alone, and every event and every edge keeps them. -/
theorem everyStepKeepsTheInvariant : Obligations.EveryStepKeepsTheInvariant := by
  intro s t h hs
  obtain rfl | ⟨i, now, hs⟩ | ⟨pins, hs⟩ := step_next_cases hs
  · exact h.of_eq s.dropInput_ds s.dropInput_tx s.dropInput_port
  · exact (h.dropInput_atTime now).exec hs
  · exact (h.dropInput_atTime pins.nowMs).clockEdge hs

end Sys2Proof.Machine

/-! PROOFS of the family 20_memory.md: runs of events (R52), the interleavings of the two lines (R55, R56), and the
credential's bytes, most significant first (R45, R46). -/

namespace Sys2Proof.Machine

/-! ## The step on an event -/

/-- Settles O45: taking the oldest input leaves the others, and its word runs as the event it decodes to. -/
theorem stepRunsTheDecodedEvent : Obligations.StepRunsTheDecodedEvent := by
  intro s w now rest i hs hw
  rw [step_event hs]
  simp [runEvent, hw, State.atTime]

theorem step_encode {s : State} {i : Instr} {now : Time} {rest : List Input}
    (h : s.inputs = .event (encode i) now :: rest) : step s = exec i { s with now := now, inputs := rest } :=
  stepRunsTheDecodedEvent s _ now rest i h (decode_encode i)

/-- A table word of all 64 bits is the event word itself. -/
@[simp] theorem tableWord_toNat (w : EventWord) : tableWord 64 w.toNat = w := by
  simp [tableWord, Nat.mod_eq_of_lt w.isLt]

/-- Settles O46: the offered word is the oldest input, and its time is the one the clock already has. -/
theorem offeredWordRunsNext : Obligations.OfferedWordRunsNext := by
  intro s i
  have hs : (s.withFetchWord 64 (encode i).toNat).inputs = .event (encode i) s.now :: s.inputs := by
    simp [State.withFetchWord, State.offerWord]
  exact step_encode hs

/-! ## Runs of events -/

theorem runEvents_nil (s : State) : runEvents [] s = .next { s with inputs := [] } := rfl

/-- No event reads or writes the placed inputs. -/
theorem afterEvent_withInputs (i : Instr) (s : State) (d : DecoderState) (xs : List Input) :
    afterEvent i { s with inputs := xs } d = { afterEvent i s d with inputs := xs } := by
  cases i <;> rfl

/-- With a decoder the first event of a run completes, and the run goes on from what it answers. -/
theorem runEvents_cons {s : State} {d : DecoderState} (hd : s.ds = some d) (e : TimedEvent) (es : List TimedEvent) :
    runEvents (e :: es) s = runEvents es (afterEvent e.instr (s.atTime e.now) d) := by
  have hstep :=
    calc step { s with inputs := (e :: es).map TimedEvent.toInput }
      _ = exec e.instr { s.atTime e.now with inputs := es.map TimedEvent.toInput } := step_encode rfl
      _ = .next (afterEvent e.instr { s.atTime e.now with inputs := es.map TimedEvent.toInput } d) :=
        exec_afterInit (by simpa using hd) e.instr
      _ = .next { afterEvent e.instr (s.atTime e.now) d with inputs := es.map TimedEvent.toInput } := by
        rw [afterEvent_withInputs]
  simp only [runEvents, runInputs, List.length_map, List.length_cons, runSteps, hstep]

/-! ## Interleavings of the two lines -/

theorem eventsOf_cons (a : Agent) (e : TimedEvent) (es : List TimedEvent) :
    eventsOf a (e :: es) = if agentOf e.instr = a then e :: eventsOf a es else eventsOf a es := by
  simp [eventsOf, List.filter_cons]

/-- Every event of a run belongs to exactly one of the three agents (20_memory.md R64). -/
theorem length_eq_sum_eventsOf (run : List TimedEvent) :
    run.length = (eventsOf .line0 run).length + (eventsOf .line1 run).length + (eventsOf .poller run).length := by
  induction run with
  | nil => rfl
  | cons e es ih =>
    simp only [eventsOf_cons, List.length_cons, ih]
    cases agentOf e.instr <;> simp <;> omega

/-- What a line issues is a pulse. -/
theorem afterEvent_ds_of_line {i : Instr} (h : agentOf i ≠ .poller) (s : State) (d : DecoderState) :
    ∃ b, (afterEvent i s d).ds = some (d.pulse b s.now) := by
  cases i with
  | pulseD0 => exact ⟨false, rfl⟩
  | pulseD1 => exact ⟨true, rfl⟩
  | _ => exact absurd rfl h

/-- A run of pulses goes to its end and counts each of them, whatever their order. -/
theorem runEvents_counts_pulses {s : State} {d : DecoderState} (hd : s.ds = some d) {run : List TimedEvent}
    (hline : ∀ e ∈ run, agentOf e.instr ≠ .poller) :
    ∃ t e, runEvents run s = .next t ∧ t.ds = some e ∧ e.bitCount = d.bitCount + BitVec.ofNat 32 run.length := by
  induction run generalizing s d with
  | nil => exact ⟨_, d, runEvents_nil s, hd, by simp⟩
  | cons p ps ih =>
    obtain ⟨hp, hps⟩ := List.forall_mem_cons.mp hline
    obtain ⟨b, hb⟩ := afterEvent_ds_of_line hp (s.atTime p.now) d
    obtain ⟨t, e, hrun, he, hcount⟩ := ih hb hps
    refine ⟨t, e, by rw [runEvents_cons hd, hrun], he, ?_⟩
    rw [hcount, DecoderState.pulse_bitCount, List.length_cons, Nat.add_comm, BitVec.ofNat_add]
    exact BitVec.add_assoc _ _ _

/-- Settles O9: a run without events of the poller holds pulses only, as many as both lines have together, and the
machine counts every one. -/
theorem everyInterleavingCountsEveryPulse : Obligations.EveryInterleavingCountsEveryPulse := by
  rintro s d line0 line1 run hd ⟨rfl, rfl, hpoller⟩
  have hline : ∀ e ∈ run, agentOf e.instr ≠ .poller := by simpa [eventsOf] using hpoller
  have hlength := length_eq_sum_eventsOf run
  rw [hpoller, List.length_nil, Nat.add_zero] at hlength
  rw [← hlength]
  exact runEvents_counts_pulses hd hline

/-! ## The credential's bytes -/

theorem encodedAs_encode (i : Instr) : EncodedAs i (encode i) := ⟨rfl, decode_encode i⟩

theorem refusedBeforeInit {i : Instr} (hi : i ≠ .init) : RefusedBeforeInit i :=
  fun _ hd => (exec_beforeInit hd i).resolve_left hi

theorem exec_getCodeBytes {s : State} {d : DecoderState} (hd : s.ds = some d) :
    exec .getCodeBytes s = .next { s with
      result := .codeBytes (wordByte d.decodedCode 3) (wordByte d.decodedCode 2) (wordByte d.decodedCode 1)
        (wordByte d.decodedCode 0) } :=
  exec_afterInit hd .getCodeBytes

/-- Bytes 3 down to 0 of a word are the word (R46). -/
theorem wordByte_append_eq (v : Word) : wordByte v 3 ++ wordByte v 2 ++ wordByte v 1 ++ wordByte v 0 = v := by
  simp only [wordByte, Nat.reduceMul]
  rw [BitVec.extractLsb'_append_extractLsb'_eq_extractLsb' (by decide),
    BitVec.extractLsb'_append_extractLsb'_eq_extractLsb' (by decide),
    BitVec.extractLsb'_append_extractLsb'_eq_extractLsb' (by decide)]
  exact BitVec.extractLsb'_eq_self

/-- Settles O24: the four bytes are those of the word, the first the most significant. -/
theorem getCodeBytesAreBigEndian : Obligations.GetCodeBytesAreBigEndian :=
  ⟨encodedAs_encode .getCodeBytes, refusedBeforeInit nofun, fun _ d hd =>
    ⟨_, _, _, _, exec_getCodeBytes hd, wordByte_append_eq d.decodedCode⟩⟩

/-- Settles O37: SENDREC's payload takes the same four bytes in the same order, behind the counter's halves. -/
theorem sendrecCarriesTheCodeBytes : Obligations.SendrecCarriesTheCodeBytes := by
  intro s d dev counter hd
  have hcounter : counter.extractLsb' 8 8 ++ counter.extractLsb' 0 8 = counter := by
    rw [BitVec.extractLsb'_append_extractLsb'_eq_extractLsb' (by decide)]
    exact BitVec.extractLsb'_eq_self
  exact ⟨_, _, _, _, _, _, exec_getCodeBytes hd, hcounter, rfl⟩

end Sys2Proof.Machine

/-! PROOFS of the family 30_encoding.md: the event words (R66 to R70), the frames on the wire (R79 to R83), the
received widths (R77), WFRAME (R87) and the port-level mapping (R90 to R95). -/

namespace Sys2Proof.Machine

/-! ## Event words -/

/-- Settles O38: the fields of every event's word are those the decoder looks for. -/
theorem decodeAfterEncode : Obligations.DecodeAfterEncode :=
  decode_encode

/-! ## The fields of a word, and which words are accepted -/

theorem op_toNat (w : EventWord) : w.op.toNat = w.toNat % 16 := by
  simp [EventWord.op]

theorem rsv_toNat (w : EventWord) : w.rsv.toNat = w.toNat / 16 % 16 := by
  simp [EventWord.rsv, Nat.shiftRight_eq_div_pow]

theorem operand_toNat (w : EventWord) : w.operand.toNat = w.toNat / 256 := by
  have h := w.isLt
  simp only [EventWord.operand, BitVec.extractLsb'_toNat, Nat.shiftRight_eq_div_pow]
  omega

/-- The three fields are the whole word (30_encoding.md R66). -/
theorem fields_append (w : EventWord) : w.operand ++ w.rsv ++ w.op = w := by
  simp only [EventWord.operand, EventWord.rsv, EventWord.op]
  rw [BitVec.extractLsb'_append_extractLsb'_eq_extractLsb' (by decide),
    BitVec.extractLsb'_append_extractLsb'_eq_extractLsb' (by decide)]
  exact BitVec.extractLsb'_eq_self

/-- What the decoder accepts, and as which event (R67 to R70). -/
theorem decode_eq_ok_iff {w : EventWord} {i : Instr} : decode w = .ok i ↔
    w.rsv = 0#4 ∧ (w.op = 8#4 ∧ i = .send (payloadOfOperand w.operand) ∨
      w.operand = 0#56 ∧ plainEvent w.op.toNat = some i) := by
  by_cases hop : w.op = 8#4
  · by_cases hrsv : w.rsv = 0#4 <;>
      simp [decode, hop, hrsv, plainEvent, eq_comm (b := i)]
  · cases hplain : plainEvent w.op.toNat with
    | none => simp [decode, hop, hplain]
    | some j =>
      by_cases hrsv : w.rsv = 0#4 <;> by_cases hoperand : w.operand = 0#56 <;>
        simp [decode, hop, hplain, hrsv, hoperand]

/-- The events without an operand are 1 to 7 (R67). -/
theorem plainEvent_eq_none_iff : ∀ n : Nat, plainEvent n = none ↔ n = 0 ∨ 8 ≤ n
  | 0 | 1 | 2 | 3 | 4 | 5 | 6 | 7 => by decide
  | n + 8 => by simp [plainEvent]

/-- The encoder writes `op` alone for the events without an operand. -/
theorem encode_of_plainEvent {n : Nat} {i : Instr} (h : plainEvent n = some i) : encode i = BitVec.ofNat 64 n := by
  unfold plainEvent at h
  split at h <;> cases h <;> rfl

theorem operandOfPayload_payloadOfOperand (v : BitVec 56) : operandOfPayload (payloadOfOperand v) = v := by
  simp only [operandOfPayload, payloadOfOperand]
  iterate 6 rw [BitVec.extractLsb'_append_extractLsb'_eq_extractLsb' (by decide)]
  exact BitVec.extractLsb'_eq_self

/-- Settles O39: `rsv` is 0 in an accepted word, `op` says the event, and `operand` is 0 or the payload. -/
theorem encodeAfterDecode : Obligations.EncodeAfterDecode := by
  intro w i h
  obtain ⟨hrsv, ⟨hop, rfl⟩ | ⟨hoperand, hplain⟩⟩ := decode_eq_ok_iff.mp h
  · calc encode (.send (payloadOfOperand w.operand))
      _ = w.operand ++ (0x08 : BitVec 8) := by simp only [encode, operandOfPayload_payloadOfOperand]
      _ = w.operand ++ w.rsv ++ w.op := by rw [hrsv, hop, BitVec.append_assoc]; rfl
      _ = w := fields_append w
  · rw [encode_of_plainEvent hplain]
    have hr : w.toNat / 16 % 16 = 0 := by rw [← rsv_toNat, hrsv]; rfl
    have ho : w.toNat / 256 = 0 := by rw [← operand_toNat, hoperand]; rfl
    apply BitVec.eq_of_toNat_eq
    rw [BitVec.toNat_ofNat, op_toNat]
    omega

theorem exists_decode_error_iff (w : EventWord) : (∃ why, decode w = .error why) ↔ ¬∃ i, decode w = .ok i := by
  cases decode w <;> simp

/-- Settles O40: a word is accepted exactly where `rsv` is 0 and either `op` is SEND's, or `op` is another event's and
`operand` is 0. -/
theorem reservedWordsAreExactlyThoseOfR70 : Obligations.ReservedWordsAreExactlyThoseOfR70 := by
  intro w
  have haccepted : (∃ i, decode w = .ok i) ↔
      w.rsv = 0#4 ∧ (w.op = 8#4 ∨ w.operand = 0#56 ∧ plainEvent w.op.toNat ≠ none) := by
    simp only [decode_eq_ok_iff, exists_and_left, exists_or, exists_eq, and_true, Option.ne_none_iff_exists']
  rw [exists_decode_error_iff, haccepted, ne_eq, plainEvent_eq_none_iff]
  simp only [← BitVec.toNat_inj, op_toNat, rsv_toNat, operand_toNat, BitVec.reduceToNat]
  omega

/-! ## The opcode table -/

/-- The rows of R67: an event's whole word, or SEND's low eight bits. -/
theorem opcodeTable_cases {row : OpcodeRow} (h : row ∈ opcodeTable) :
    (∃ i : Instr, row = ⟨i.mnemonic, encode i, BitVec.allOnes 64⟩) ∨ row = ⟨"SEND", 0x08, 0xFF⟩ := by
  simp only [opcodeTable, List.mem_cons, List.not_mem_nil, or_false] at h
  obtain rfl | rfl | rfl | rfl | rfl | rfl | rfl | rfl := h
  · exact .inl ⟨.init, rfl⟩
  · exact .inl ⟨.pulseD0, rfl⟩
  · exact .inl ⟨.pulseD1, rfl⟩
  · exact .inl ⟨.poll, rfl⟩
  · exact .inl ⟨.getCode, rfl⟩
  · exact .inl ⟨.getCodeBytes, rfl⟩
  · exact .inl ⟨.getWidth, rfl⟩
  · exact .inr rfl

/-- SEND's mask fixes `op` and `rsv`. -/
theorem fields_of_and_mask {w : EventWord} (h : w &&& 0xFF = 0x08) : w.op = 8#4 ∧ w.rsv = 0#4 := by
  have hlow : w.toNat % 256 = 8 := by
    calc w.toNat % 2 ^ 8
      _ = (w &&& 0xFF).toNat := by rw [BitVec.toNat_and, ← Nat.and_two_pow_sub_one_eq_mod]; rfl
      _ = 8 := by rw [h]; rfl
  simp only [← BitVec.toNat_inj, op_toNat, rsv_toNat, BitVec.reduceToNat]
  omega

theorem tableRow_statement : ∀ i : Instr, Laws.TableRow.Statement i
  | .init => Laws.TableRow.init
  | .pulseD0 => Laws.TableRow.pulseD0
  | .pulseD1 => Laws.TableRow.pulseD1
  | .poll => Laws.TableRow.poll
  | .getCode => Laws.TableRow.getCode
  | .getCodeBytes => Laws.TableRow.getCodeBytes
  | .getWidth => Laws.TableRow.getWidth
  | .send p => Laws.TableRow.send p

/-- A mnemonic stands in one row only. -/
theorem find_mnemonic : ∀ row ∈ opcodeTable,
    (opcodeTable.find? fun r => r.mnemonic == row.mnemonic) = some row := by decide

/-- Settles O41: a matching word is the row's own or a SEND's, and an event's word matches the row of its mnemonic. -/
theorem decoderAgreesWithTheOpcodeTable : Obligations.DecoderAgreesWithTheOpcodeTable := by
  intro w row hrow
  constructor
  · intro hmatch
    have hw : w &&& row.mask = row.pattern := by simpa [OpcodeRow.matches] using hmatch
    obtain ⟨i, rfl⟩ | rfl := opcodeTable_cases hrow
    · rw [BitVec.and_allOnes] at hw
      exact ⟨i, by rw [hw, decode_encode], rfl⟩
    · obtain ⟨hop, hrsv⟩ := fields_of_and_mask hw
      exact ⟨_, decode_eq_ok_iff.mpr ⟨hrsv, .inl ⟨hop, rfl⟩⟩, rfl⟩
  · rintro ⟨i, hi, hname⟩
    have hfound := tableRow_statement i
    rw [Laws.TableRow.Statement, hname, find_mnemonic row hrow] at hfound
    rw [← encodeAfterDecode w i hi]
    exact hfound

/-! ## SEND's operand -/

/-- Byte `P[i]` of the operand (R68). -/
theorem getElem?_payloadOfOperand (v : BitVec 56) {i : Nat} (h : i < 7) :
    (payloadOfOperand v).toList[i]? = some (v.extractLsb' (48 - 8 * i) 8) := by
  interval_cases i <;> rfl

/-- Settles O42: `operand` starts at bit 8 of the word, and byte `i` at bit `48 - 8i` of the operand. -/
theorem sendOperandFields : Obligations.SendOperandFields := by
  intro w p h i hi
  obtain ⟨-, -, hoperand⟩ := fields_encode_send p
  rw [encodeAfterDecode w _ h] at hoperand
  have hp : p = payloadOfOperand w.operand := by rw [hoperand, payloadOfOperand_operandOfPayload]
  have hbits : 56 - 8 * i = 8 + (48 - 8 * i) := by omega
  refine ⟨_, by rw [hp, getElem?_payloadOfOperand _ hi], ?_⟩
  rw [BitVec.extractLsb'_toNat, operand_toNat, Nat.shiftRight_eq_div_pow, Nat.div_div_eq_div_mul, hbits, Nat.pow_add]

/-! ## WFRAME -/

/-- Settles O44: the first pulse stands at `t0`, and the others are the WFRAME from `t0 + dt` on. -/
theorem wframeExpandsToPulses : Obligations.WframeExpandsToPulses := by
  intro bits t0 dt
  induction bits generalizing t0 with
  | nil => exact ⟨rfl, nofun⟩
  | cons c bits ih =>
    obtain ⟨hlength, hpulse⟩ := ih (t0 + dt)
    refine ⟨congrArg Nat.succ hlength, fun k b hb => ?_⟩
    cases k with
    | zero =>
      cases hb
      simp [wframe, pulseOfBit]
    | succ k =>
      have htime : BitVec.ofNat 32 ((t0 + dt).toNat + k * dt.toNat) =
          BitVec.ofNat 32 (t0.toNat + (k + 1) * dt.toNat) := by
        apply BitVec.eq_of_toNat_eq
        rw [BitVec.toNat_ofNat, BitVec.toNat_ofNat, BitVec.toNat_add, Nat.mod_add_mod, Nat.succ_mul, Nat.add_assoc,
          Nat.add_comm (k * _)]
      rw [wframe, List.getElem?_cons_succ, hpulse k b hb, htime]

/-! ## The boundaries of the frames on the wire -/

theorem stop_notMem_escapeByte (b : Byte) : Config.stop ∉ escapeByte b := by
  obtain ⟨h, he⟩ | ⟨h, he⟩ := escapeByte_cases b <;> rw [he]
  · obtain rfl | rfl | rfl := isReserved_eq_true h <;> decide
  · simp only [List.mem_singleton]
    rintro rfl
    exact absurd h (by decide)

theorem stop_notMem_frameInside (p : FramePayload) : Config.stop ∉ frameInside p := by
  rw [frameInside_eq, escapeBytes, List.mem_flatMap]
  rintro ⟨b, -, hb⟩
  exact stop_notMem_escapeByte b hb

/-- The receiver takes an escape pair for one byte (43_frame_encoder.md R152). -/
theorem unescape_esc_cons (c : Byte) (tail : List Byte) :
    unescape (Config.esc :: c :: tail) = (unescape tail).map ((c - Config.escOffset) :: ·) := by
  simp [unescape]

/-- The receiver takes every other byte for itself (R152). -/
theorem unescape_cons_of_ne_esc {b : Byte} (h : b ≠ Config.esc) (tail : List Byte) :
    unescape (b :: tail) = (unescape tail).map (b :: ·) := by
  cases tail <;> simp [unescape, h]

/-- In front of any text an escaped byte is read as that byte (43_frame_encoder.md R153). -/
theorem unescape_escapeByte_append (b : Byte) (tail : List Byte) :
    unescape (escapeByte b ++ tail) = (unescape tail).map (b :: ·) := by
  obtain ⟨-, he⟩ | ⟨h, he⟩ := escapeByte_cases b <;> rw [he]
  · exact (unescape_esc_cons _ tail).trans (by rw [BitVec.add_sub_cancel])
  · refine unescape_cons_of_ne_esc ?_ tail
    rintro rfl
    exact absurd h (by decide)

theorem unescape_escapeBytes (bs : List Byte) : unescape (escapeBytes bs) = some bs := by
  induction bs with
  | nil => rfl
  | cons b bs ih => rw [escapeBytes_cons, unescape_escapeByte_append, ih]; rfl

theorem toList_injective : Function.Injective FramePayload.toList := by
  rintro ⟨⟩ ⟨⟩ h
  simpa [FramePayload.toList] using h

/-- What stands between the delimiters determines the payload: the receiver reads it back (R153). -/
theorem frameInside_injective : Function.Injective frameInside := by
  intro p q h
  have hread : p.toList ++ [checksum p] = q.toList ++ [checksum q] := by
    simpa only [frameInside_eq, unescape_escapeBytes, Option.some.injEq] using congrArg unescape h
  exact toList_injective (List.append_inj_left' hread rfl)

/-- A frame in front of other bytes ends at its `STOP`, the first one (30_encoding.md R83). -/
theorem frame_append_inj {p q : FramePayload} {xs ys : List Byte} (h : frame p ++ xs = frame q ++ ys) :
    p = q ∧ xs = ys := by
  have hcut : frameInside p ++ Config.stop :: xs = frameInside q ++ Config.stop :: ys := by
    simpa [frame] using h
  have hlength : (frameInside p).length = (frameInside q).length := by
    simpa [List.idxOf_append_of_notMem, stop_notMem_frameInside] using congrArg (List.idxOf Config.stop) hcut
  obtain ⟨hinside, hrest⟩ := List.append_inj hcut hlength
  exact ⟨frameInside_injective hinside, List.tail_eq_of_cons_eq hrest⟩

theorem frame_ne_nil (p : FramePayload) : frame p ≠ [] := by simp [frame]

/-- Settles O36: the first frame ends at its `STOP` and determines its payload, and what follows are the others. -/
theorem wireBytesDetermineThePayloads : Obligations.WireBytesDetermineThePayloads := by
  intro ps
  induction ps with
  | nil =>
    rintro (_ | ⟨q, qs⟩) h
    · rfl
    · simp [frame_ne_nil] at h
  | cons p ps ih =>
    rintro (_ | ⟨q, qs⟩) h
    · simp [frame_ne_nil] at h
    · obtain ⟨rfl, hrest⟩ := frame_append_inj h
      rw [ih qs hrest]

/-! ## Received frames of other widths -/

/-- The decoder after these pulses, in order. -/
def DecoderState.pulses (ps : List (Bool × Time)) (d : DecoderState) : DecoderState :=
  ps.foldl (fun e p => e.pulse p.1 p.2) d

namespace DecoderState

@[simp] theorem pulses_nil (d : DecoderState) : d.pulses [] = d := rfl

@[simp] theorem pulses_cons (p : Bool × Time) (ps : List (Bool × Time)) (d : DecoderState) :
    d.pulses (p :: ps) = (d.pulse p.1 p.2).pulses ps := rfl

theorem pulses_bitCount (ps : List (Bool × Time)) (d : DecoderState) :
    (d.pulses ps).bitCount = d.bitCount + BitVec.ofNat 32 ps.length := by
  induction ps generalizing d with
  | nil => simp
  | cons p ps ih =>
    rw [pulses_cons, ih, pulse_bitCount, List.length_cons, Nat.add_comm, BitVec.ofNat_add]
    exact BitVec.add_assoc _ _ _

theorem pulses_lastPulseTime (ps : List (Bool × Time)) (d : DecoderState) :
    (d.pulses ps).lastPulseTime = (ps.map Prod.snd).getLastD d.lastPulseTime := by
  induction ps generalizing d with
  | nil => rfl
  | cons p ps ih => rw [pulses_cons, ih, List.map_cons, List.getLastD_cons, pulse_lastPulseTime]

@[simp] theorem pulses_decodedCode (ps : List (Bool × Time)) (d : DecoderState) :
    (d.pulses ps).decodedCode = d.decodedCode := by
  induction ps generalizing d with
  | nil => rfl
  | cons p ps ih => rw [pulses_cons, ih, pulse_decodedCode]

@[simp] theorem pulses_decodedWidth (ps : List (Bool × Time)) (d : DecoderState) :
    (d.pulses ps).decodedWidth = d.decodedWidth := by
  induction ps generalizing d with
  | nil => rfl
  | cons p ps ih => rw [pulses_cons, ih, pulse_decodedWidth]

end DecoderState

theorem afterEvent_pulseOfBit (b : Bool) (s : State) (d : DecoderState) :
    afterEvent (pulseOfBit b) s d = (s.setDecoder (d.pulse b s.now)).setResult .nothing := by
  cases b <;> rfl

/-- A train of pulses completes, and the run goes on with the pulses in the decoder and nothing else of the block
changed. -/
theorem runEvents_pulseTrain_append (ps : List (Bool × Time)) (es : List TimedEvent) {s : State} {d : DecoderState}
    (hd : s.ds = some d) :
    ∃ t, runEvents (pulseTrain ps ++ es) s = runEvents es t ∧ t.ds = some (d.pulses ps) ∧
      t.tx = s.tx ∧ t.port = s.port ∧ t.params = s.params := by
  induction ps generalizing s d with
  | nil => exact ⟨s, rfl, hd, rfl, rfl, rfl⟩
  | cons p ps ih =>
    obtain ⟨t, hrun, ht⟩ := ih (s := afterEvent (pulseOfBit p.1) (s.atTime p.2) d) (d := d.pulse p.1 p.2)
      (by rw [afterEvent_pulseOfBit]; rfl)
    refine ⟨t, (runEvents_cons hd _ _).trans hrun, ?_⟩
    simpa [afterEvent_pulseOfBit] using ht

/-- The decoder's subtraction is the one of 41_resolution.md R112. -/
theorem elapsed_toNat (now last : Time) : (elapsed now last).toNat = silence now last := by
  have h := last.isLt
  rw [elapsed, BitVec.toNat_sub, silence]
  congr 1
  omega

/-- After the silence any width but 26 and 34 is noise (41_resolution.md R115). -/
theorem poll_of_noise (p : Params) {now : Time} {d : DecoderState} (hs : 25 < silence now d.lastPulseTime)
    (h26 : d.bitCount ≠ 26) (h34 : d.bitCount ≠ 34) :
    d.poll p now = ({ d.clear with lastPulseTime := now }, .noise) := by
  obtain ⟨hle, -⟩ | ⟨-, ⟨h, -⟩ | ⟨h, -⟩ | ⟨⟨h, -⟩ | ⟨h, -⟩, -⟩ | ⟨-, -, h⟩⟩ := poll_cases p now d
  · rw [elapsed_toNat, Config.silenceMs] at hle
    exact absurd hs (Nat.not_lt.mpr hle)
  · exact absurd h h26
  · exact absurd h h34
  · exact absurd h h26
  · exact absurd h h34
  · exact h

/-- Settles O20: the count is the number of pulses, since it does not wrap, and POLL finds noise. -/
theorem otherWidthsAreDiscarded : Obligations.OtherWidthsAreDiscarded := by
  rintro s d ps now hd ⟨hcount, -, -⟩ hlength h26 h34 hs
  obtain ⟨t, hrun, ht, -⟩ := runEvents_pulseTrain_append ps [⟨.poll, now⟩] hd
  have hbits : (d.pulses ps).bitCount.toNat = ps.length := by
    simpa [DecoderState.pulses_bitCount, hcount] using hlength
  have hpoll := poll_of_noise t.params (d := d.pulses ps) (now := now)
    (by rwa [DecoderState.pulses_lastPulseTime])
    (fun h => h26 (by rw [← hbits, h]; rfl)) (fun h => h34 (by rw [← hbits, h]; rfl))
  refine ⟨_, { (d.pulses ps).clear with lastPulseTime := now }, hrun.trans (runEvents_cons ht _ []), ?_, ?_,
    DecoderState.pulses_decodedCode ps d, DecoderState.pulses_decodedWidth ps d, ⟨rfl, rfl, rfl⟩, rfl⟩
  · simp [afterEvent, hpoll, PollOutcome.available]
  · simp [afterEvent, hpoll]

/-! ## Who reads the time -/

/-- An event that is no pulse and no POLL does the same at any time (30_encoding.md R69). -/
theorem afterEvent_atTime {i : Instr} (h0 : i ≠ .pulseD0) (h1 : i ≠ .pulseD1) (hp : i ≠ .poll) (s : State)
    (d : DecoderState) (now : Time) : afterEvent i (s.atTime now) d = (afterEvent i s d).atTime now := by
  cases i with
  | pulseD0 => exact absurd rfl h0
  | pulseD1 => exact absurd rfl h1
  | poll => exact absurd rfl hp
  | _ => rfl

/-- Settles O28: after INIT a pulse and a POLL at time 26 record that time in place of the reset value's 0; the other
events read the decoder alone. -/
theorem onlyPulsesAndPollReadTheTime : Obligations.OnlyPulsesAndPollReadTheTime := by
  refine ⟨fun i s now rest => step_encode, ?_, ?_, ?_⟩
  · intro i s t now h0 h1 hp h
    obtain ⟨rfl, rfl⟩ | ⟨d, hd, rfl⟩ := exec_next_cases h
    · rfl
    · exact (exec_afterInit (s := s.atTime now) hd i).trans (congrArg _ (afterEvent_atTime h0 h1 hp s d now))
  · rintro i (rfl | rfl | rfl)
    all_goals exact ⟨State.reset, _, _, 26, rfl, rfl, by decide⟩
  · rintro i s d (rfl | rfl) hd
    all_goals exact ⟨_, _, exec_afterInit hd _, rfl, rfl⟩

/-! ## A placed edge -/

theorem step_edge_of_init {pins : PortPins} (hi : pins.init = true) (s : State) (rest : List Input) :
    step { s with inputs := .cycle pins :: rest } =
      .next (State.initEdge pins { s with now := pins.nowMs, inputs := rest }) :=
  (step_cycle rfl).trans (clockEdge_of_init hi)

theorem step_edge_of_decoder {pins : PortPins} (hi : pins.init = false) {s : State} {d : DecoderState}
    (hd : s.ds = some d) (rest : List Input) :
    step { s with inputs := .cycle pins :: rest } =
      .next (afterEdge pins { s with now := pins.nowMs, inputs := rest } d) :=
  (step_cycle rfl).trans (clockEdge_of_decoder hi hd)

/-! ## The encoder and its stream of bytes -/

namespace PortState

variable {p : PortState}

theorem untaken_of_emission_none (h : p.emission = none) : p.untaken = [] := by simp [untaken, h]

theorem busy_eq_false_iff : p.busy = false ↔ p.emission = none := by simp [busy]

/-- A consistent encoder is busy exactly while it has bytes left to give (30_encoding.md R94). -/
theorem WF.busy_iff (h : p.WF) : p.busy = true ↔ p.untaken ≠ [] := by
  cases he : p.emission with
  | none => simp [busy, untaken, he]
  | some e =>
    obtain ⟨-, hlt, -⟩ := h e he
    simpa [busy, untaken, he] using hlt

/-- An idle encoder accepts a request: the whole frame is to be taken (R95). -/
theorem encoderEdge_accepts (h : p.emission = none) {pins : PortPins} (hs : pins.sendReq = true) :
    (p.encoderEdge pins).taken = p.taken ∧
    (p.encoderEdge pins).untaken = frame (payloadOfOperand pins.sendPayload) := by
  simp [encoderEdge, h, hs, untaken]

theorem encoderEdge_of_no_request (h : p.emission = none) {pins : PortPins} (hs : pins.sendReq = false) :
    p.encoderEdge pins = p := by
  simp [encoderEdge, h, hs]

theorem encoderEdge_of_not_ready {e : Emission} (h : p.emission = some e) {pins : PortPins}
    (hr : pins.txReady = false) : p.encoderEdge pins = p := by
  simp [encoderEdge, h, hr]

/-- The byte taken is the first of those left, also where it is the last one and the encoder becomes idle. -/
theorem encoderEdge_of_ready {e : Emission} (h : p.emission = some e) (hlt : e.idx < e.buf.length) {pins : PortPins}
    (hr : pins.txReady = true) :
    (p.encoderEdge pins).taken = p.taken ++ [e.buf[e.idx]] ∧
    (p.encoderEdge pins).untaken = e.buf.drop (e.idx + 1) := by
  refine ⟨by simp [encoderEdge, takeByte, txData_of_emission h hlt, h, hr], ?_⟩
  by_cases hmore : e.idx + 1 < e.buf.length
  · simp [encoderEdge, untaken, h, hr, hmore]
  · rw [List.drop_eq_nil_of_le (Nat.not_lt.mp hmore)]
    simp [encoderEdge, untaken, h, hr, hmore]

/-- An edge that accepts no request gives the transport the next byte if `tx_ready` is high, and nothing else (R95,
70_reset_and_hazards.md R211). -/
theorem WF.encoderEdge_gives (h : p.WF) {pins : PortPins} (hs : p.busy = false → pins.sendReq = false) :
    (p.encoderEdge pins).taken = p.taken ++ p.untaken.take pins.txReady.toNat ∧
    (p.encoderEdge pins).untaken = p.untaken.drop pins.txReady.toNat := by
  cases he : p.emission with
  | none =>
    rw [encoderEdge_of_no_request he (hs (busy_eq_false_iff.mpr he)), untaken_of_emission_none he]
    simp
  | some e =>
    cases hr : pins.txReady with
    | false => simp [encoderEdge_of_not_ready he hr]
    | true =>
      obtain ⟨-, hlt, -⟩ := h e he
      obtain ⟨htaken, huntaken⟩ := encoderEdge_of_ready he hlt hr
      have hleft : p.untaken = e.buf[e.idx] :: e.buf.drop (e.idx + 1) := by
        rw [← List.drop_eq_getElem_cons hlt]
        simp [untaken, he]
      rw [htaken, huntaken, hleft]
      exact ⟨rfl, rfl⟩

/-- What the transport has and will have is extended by the frame of an accepted request, and by nothing else (R95). -/
theorem WF.encoderEdge_stream (h : p.WF) (pins : PortPins) :
    (p.encoderEdge pins).taken ++ (p.encoderEdge pins).untaken =
      p.taken ++ p.untaken ++
        if pins.sendReq && !p.busy then frame (payloadOfOperand pins.sendPayload) else [] := by
  cases hreq : pins.sendReq && !p.busy with
  | true =>
    obtain ⟨hs, hidle⟩ : pins.sendReq = true ∧ p.busy = false := by simpa using hreq
    have hnone := busy_eq_false_iff.mp hidle
    obtain ⟨htaken, huntaken⟩ := encoderEdge_accepts hnone hs
    simp [htaken, huntaken, untaken_of_emission_none hnone]
  | false =>
    obtain ⟨htaken, huntaken⟩ := h.encoderEdge_gives (pins := pins) fun hidle => by simpa [hidle] using hreq
    simp [htaken, huntaken]

end PortState

/-! ## An accepted request delivers its frame -/

/-- With a decoder an edge without `init` completes, and the run goes on from what it answers. -/
theorem runInputs_cycle_cons {s : State} {d : DecoderState} {pins : PortPins} (hd : s.ds = some d)
    (hi : pins.init = false) (xs : List Input) :
    runInputs (.cycle pins :: xs) s = runInputs xs (afterEdge pins (s.atTime pins.nowMs) d) := by
  simp only [runInputs, List.length_cons, runSteps, step_edge_of_decoder hi hd]
  rfl

/-- Edges without `init` and `send_req` give the transport one of the bytes left for each `tx_ready`, in order. -/
theorem runInputs_cycles_deliver {pins : List PortPins} (hq : ∀ q ∈ pins, q.init = false ∧ q.sendReq = false)
    {s : State} {d : DecoderState} (hd : s.ds = some d) (hwf : s.port.WF) :
    ∃ t, runInputs (pins.map .cycle) s = .next t ∧ t.port.WF ∧
      t.port.taken = s.port.taken ++ s.port.untaken.take (pins.countP (·.txReady)) ∧
      t.port.untaken = s.port.untaken.drop (pins.countP (·.txReady)) := by
  induction pins generalizing s d with
  | nil => exact ⟨_, rfl, hwf, by simp, by simp⟩
  | cons q qs ih =>
    obtain ⟨⟨hinit, hsend⟩, hqs⟩ := List.forall_mem_cons.mp hq
    obtain ⟨htaken, huntaken⟩ := hwf.encoderEdge_gives fun _ => hsend
    obtain ⟨t, hrun, ht, htaken', huntaken'⟩ :=
      ih hqs (s := afterEdge q (s.atTime q.nowMs) d) rfl (hwf.encoderEdge q)
    have hcount : (q :: qs).countP (·.txReady) = q.txReady.toNat + qs.countP (·.txReady) := by
      cases h : q.txReady <;> simp [h, Nat.add_comm]
    refine ⟨t, by rw [List.map_cons, runInputs_cycle_cons hd hinit, hrun], ht, ?_, ?_⟩
    · calc t.port.taken
        _ = (s.port.encoderEdge q).taken ++ (s.port.encoderEdge q).untaken.take _ := htaken'
        _ = _ := by rw [htaken, huntaken, hcount, List.take_add, List.append_assoc]
    · calc t.port.untaken
        _ = (s.port.encoderEdge q).untaken.drop _ := huntaken'
        _ = _ := by rw [huntaken, hcount, List.drop_drop]

/-- Settles O54: the request's edge puts the whole frame before the transport, and the later edges deliver it. -/
theorem acceptedRequestDeliversItsFrame : Obligations.AcceptedRequestDeliversItsFrame := by
  intro s d request pins hd hidle hinit hsend hpins
  have hnone := PortState.busy_eq_false_iff.mp hidle
  have hwf : s.port.WF := PortState.wf_of_emission_none hnone
  obtain ⟨htaken, huntaken⟩ := PortState.encoderEdge_accepts hnone hsend
  obtain ⟨t, hrun, ht, htaken', huntaken'⟩ :=
    runInputs_cycles_deliver hpins (s := afterEdge request (s.atTime request.nowMs) d) rfl (hwf.encoderEdge request)
  refine ⟨t, by rw [List.map_cons, runInputs_cycle_cons hd hinit, hrun], ?_, ?_⟩
  · calc t.port.taken
      _ = (s.port.encoderEdge request).taken ++ (s.port.encoderEdge request).untaken.take _ := htaken'
      _ = _ := by rw [htaken, huntaken]
  · have hleft : t.port.untaken = (frame (payloadOfOperand request.sendPayload)).drop (pins.countP (·.txReady)) :=
      huntaken'.trans (by rw [← huntaken]; rfl)
    rw [ht.busy_iff, hleft, ne_eq, List.drop_eq_nil_iff, Nat.not_le]

/-! ## A clock edge is the run of its events -/

/-- An event that an edge runs where its input is high, one of those that leave `tx` alone. -/
theorem runEvents_eventIf (c : Bool) (e : TimedEvent) {s : State} {d d' : DecoderState} (hd : s.ds = some d)
    (hds : (afterEvent e.instr (s.atTime e.now) d).ds = some d')
    (htx : (afterEvent e.instr (s.atTime e.now) d).tx = s.tx) :
    ∃ s', (∀ es, runEvents ((if c then [e] else []) ++ es) s = runEvents es s') ∧
      s'.ds = some (if c then d' else d) ∧ s'.tx = s.tx := by
  cases c with
  | false => exact ⟨s, fun _ => rfl, hd, rfl⟩
  | true => exact ⟨_, runEvents_cons hd e, hds, htx⟩

/-- The events of an edge without `init`, run one after the other, leave the decoder of the edge and append the frame of
an accepted request to `tx` (30_encoding.md R91, R95). -/
theorem runEvents_eventsOfEdge {pins : PortPins} (hi : pins.init = false) (busy : Bool) {s : State} {d : DecoderState}
    (hd : s.ds = some d) :
    ∃ u, runEvents (eventsOfEdge pins busy) s = .next u ∧ u.ds = some (d.edge s.params pins).1 ∧
      u.tx = s.tx ++ if pins.sendReq && !busy then frame (payloadOfOperand pins.sendPayload) else [] := by
  obtain ⟨s₁, hpoll, hd₁, htx₁⟩ := runEvents_eventIf pins.pollReq ⟨.poll, pins.nowMs⟩ hd rfl rfl
  obtain ⟨s₂, hd0, hd₂, htx₂⟩ := runEvents_eventIf pins.d0Pulse ⟨.pulseD0, pins.nowMs⟩ hd₁ rfl rfl
  obtain ⟨s₃, hd1, hd₃, htx₃⟩ := runEvents_eventIf pins.d1Pulse ⟨.pulseD1, pins.nowMs⟩ hd₂ rfl rfl
  have hds : s₃.ds = some (d.edge s.params pins).1 := by rw [hd₃, edge_decoder]; rfl
  have htx : s₃.tx = s.tx := htx₃.trans (htx₂.trans htx₁)
  simp only [eventsOfEdge, hi, Bool.false_eq_true, if_false, List.append_assoc, hpoll, hd0, hd1, ← htx]
  cases pins.sendReq && !busy with
  | false => exact ⟨_, runEvents_nil s₃, hds, (List.append_nil _).symm⟩
  | true => exact ⟨_, runEvents_cons hds _ [], hds, rfl⟩

/-- An `init` edge is the run of INIT alone (R91). -/
theorem eventsOfEdge_of_init {pins : PortPins} (hi : pins.init = true) (busy : Bool) :
    eventsOfEdge pins busy = [⟨.init, pins.nowMs⟩] := by
  simp [eventsOfEdge, hi]

/-- Settles O53: the decoder's part of an edge is its POLL and its pulses in turn, and the encoder's part keeps the
stream of the bytes taken and to be taken, which an accepted request extends as SEND extends `tx`. -/
theorem clockEdgeRefinesItsEvents : Obligations.ClockEdgeRefinesItsEvents := by
  intro s d pins rest hd hwf hcut
  cases hi : pins.init with
  | true =>
    have hnone : s.port.emission = none := PortState.busy_eq_false_iff.mp (by simpa [hi] using hcut)
    rw [eventsOfEdge_of_init hi]
    have hrun := runEvents_cons (s := s.atTransactionLevel) hd ⟨.init, pins.nowMs⟩ []
    refine ⟨_, _, step_edge_of_init hi s rest, hrun, rfl, ?_, rfl, rfl, rfl⟩
    simp [State.atTransactionLevel, State.initEdge, afterEvent, PortState.takeCut, PortState.untaken, hnone]
  | false =>
    obtain ⟨u, hrun, hds, htx⟩ := runEvents_eventsOfEdge hi s.port.busy (s := s.atTransactionLevel) hd
    refine ⟨_, u, step_edge_of_decoder hi hd rest, hrun, hds.symm, ?_, rfl, rfl, rfl⟩
    rw [htx]
    exact hwf.encoderEdge_stream pins

/-! ## The ports -/

theorem encoderEdge_ignores_request {p : PortState} (h : p.busy = true) (pins : PortPins) (b : Bool) :
    p.encoderEdge { pins with sendReq := b } = p.encoderEdge pins := by
  obtain ⟨e, he⟩ := Option.isSome_iff_exists.mp h
  simp [PortState.encoderEdge, he]

/-- The decoder's part of an edge reads no `send_req` at all. -/
theorem afterEdge_ignores_request {s : State} (h : s.port.busy = true) (pins : PortPins) (b : Bool)
    (d : DecoderState) : afterEdge { pins with sendReq := b } s d = afterEdge pins s d := by
  simp only [afterEdge, encoderEdge_ignores_request h]
  rfl

/-- An `init` edge reads no `send_req`, and on any other edge only an idle encoder does (70_reset_and_hazards.md
R211). -/
theorem step_edge_ignores_request {s : State} {d : DecoderState} (hd : s.ds = some d) (hbusy : s.port.busy = true)
    (pins : PortPins) (b : Bool) (rest : List Input) :
    step { s with inputs := .cycle { pins with sendReq := b } :: rest } =
      step { s with inputs := .cycle pins :: rest } := by
  by_cases hi : pins.init = true
  · exact (step_edge_of_init (pins := { pins with sendReq := b }) hi s rest).trans (step_edge_of_init hi s rest).symm
  · have hi := Bool.eq_false_iff.mpr hi
    rw [step_edge_of_decoder (pins := { pins with sendReq := b }) hi hd, step_edge_of_decoder hi hd]
    exact congrArg _ (afterEdge_ignores_request (s := { s with now := pins.nowMs, inputs := rest }) hbusy pins b d)

/-- Settles O55: with `send_req` high and low the edge answers the same as without regard to it. -/
theorem requestWhileBusyIsIgnored : Obligations.RequestWhileBusyIsIgnored := by
  intro s d pins rest hd hbusy
  exact (step_edge_ignores_request hd hbusy pins true rest).trans
    (step_edge_ignores_request hd hbusy pins false rest).symm

/-- The getter outputs are those of the decoder (30_encoding.md R92). -/
theorem outputs_eq_some {s : State} {o : PortOutputs} (h : Port.outputs s = some o) :
    ∃ d, s.ds = some d ∧ o.code = d.decodedCode ∧ o.width = d.decodedWidth.toByte ∧
      o.codeBytes = [wordByte d.decodedCode 3, wordByte d.decodedCode 2, wordByte d.decodedCode 1,
        wordByte d.decodedCode 0] := by
  obtain ⟨d, hd, rfl⟩ := Option.map_eq_some_iff.mp h
  exact ⟨d, hd, rfl, rfl, rfl⟩

/-- Settles O57: outputs and getters show the same views of the credential and its width. -/
theorem gettersSampleTheOutputs : Obligations.GettersSampleTheOutputs := by
  intro s o h
  obtain ⟨d, hd, hcode, hwidth, hbytes⟩ := outputs_eq_some h
  exact ⟨by rw [hcode]; exact exec_afterInit hd .getCode, by rw [hwidth]; exact exec_afterInit hd .getWidth,
    _, _, _, _, hbytes, exec_getCodeBytes hd⟩

theorem pulseIf_credential (c b : Bool) (now : Time) (d : DecoderState) :
    (d.pulseIf c b now).decodedCode = d.decodedCode ∧ (d.pulseIf c b now).decodedWidth = d.decodedWidth := by
  cases c <;> exact ⟨rfl, rfl⟩

/-- An edge without a POLL that succeeds leaves the credential and its width (R92). -/
theorem edge_credential (p : Params) (pins : PortPins) (d : DecoderState) :
    (pins.pollReq = true ∧ (d.edge p pins).2 = some true) ∨
    ((d.edge p pins).1.decodedCode = d.decodedCode ∧ (d.edge p pins).1.decodedWidth = d.decodedWidth) := by
  rw [edge_reply, edge_decoder]
  simp only [pulseIf_credential]
  cases pins.pollReq with
  | false => exact .inr ⟨rfl, rfl⟩
  | true =>
    obtain ha | hk := poll_credential p pins.nowMs d
    · exact .inl ⟨rfl, congrArg some ha⟩
    · exact .inr hk

/-- Settles O58: an edge without `init` runs POLL and pulses, and only a POLL that succeeds writes the credential. -/
theorem outputsChangeOnlyAtInitOrSuccess : Obligations.OutputsChangeOnlyAtInitOrSuccess := by
  intro s t pins rest o o' ho hstep ho'
  obtain ⟨d, hd, hcode, hwidth, hbytes⟩ := outputs_eq_some ho
  obtain ⟨e, he, hcode', hwidth', hbytes'⟩ := outputs_eq_some ho'
  cases hi : pins.init with
  | true => exact .inl rfl
  | false =>
    rw [step_edge_of_decoder hi hd] at hstep
    cases hstep
    cases he
    obtain hpoll | ⟨hc, hw⟩ := edge_credential s.params pins d
    · exact .inr (.inl hpoll)
    · refine .inr (.inr ⟨?_, ?_, ?_⟩)
      · rw [hcode', hcode, hc]
      · rw [hbytes', hbytes, hc]
      · rw [hwidth', hwidth, hw]

/-- Settles O59: the reply of an edge is the result of its POLL, where it has one. -/
theorem pollDoneFollowsPollRequest : Obligations.PollDoneFollowsPollRequest := by
  intro s d pins rest hd hi
  refine ⟨_, _, step_edge_of_decoder hi hd rest, rfl, ?_, fun hp =>
    ⟨_, _, exec_afterInit (s := s.atTime pins.nowMs) hd .poll, rfl, ?_⟩⟩
  · cases hp : pins.pollReq <;> simp [afterEdge, edge_reply, hp]
  · simp [afterEdge, edge_reply, hp]

end Sys2Proof.Machine

/-! PROOFS of the family 40_pulse.md: the pulse step in arithmetic (R100, R101), the accumulation of a frame from
cleared accumulators (R102), and the pulses after the count has wrapped (R104). -/

namespace Sys2Proof.Machine

/-! ## The pulse step in arithmetic -/

theorem lineBit_toNat (b : Bool) : (lineBit b).toNat = b.toNat := by cases b <;> rfl

/-- Where bit 0 is free, setting it adds the line's bit. -/
theorem or_lineBit_toNat {v : Word} (h : v.toNat % 2 = 0) (b : Bool) :
    (v ||| lineBit b).toNat = v.toNat + b.toNat := by
  have hor := Nat.two_pow_add_eq_or_of_lt (i := 1) (Bool.toNat_lt b) (v.toNat / 2)
  have hv : 2 ^ 1 * (v.toNat / 2) = v.toNat := by omega
  rw [BitVec.toNat_or, lineBit_toNat, ← hv, hor]

theorem shiftLeft_one_toNat (v : Word) : (v <<< 1).toNat = 2 * v.toNat % 2 ^ 32 := by
  rw [BitVec.toNat_shiftLeft, Nat.shiftLeft_eq, Nat.pow_one, Nat.mul_comm]

theorem shiftLeft_one_eq_ofNat (v : Word) : v <<< 1 = BitVec.ofNat 32 (2 * v.toNat) :=
  BitVec.eq_of_toNat_eq (by rw [shiftLeft_one_toNat, BitVec.toNat_ofNat])

theorem lowTop_eq_lineBit (d : DecoderState) : lowTop d = lineBit (d.lowBits.getLsbD 31) := by
  apply BitVec.eq_of_toNat_eq
  have h := d.lowBits.isLt
  rw [lineBit_toNat, lowTop, BitVec.toNat_ushiftRight, Nat.shiftRight_eq_div_pow, BitVec.getLsbD, Nat.toNat_testBit]
  omega

/-- A carry doubles `high_bits` and adds `low_bits[31]` (R100). -/
theorem carry_toNat (d : DecoderState) :
    (d.highBits <<< 1 ||| lowTop d).toNat = 2 * d.highBits.toNat % 2 ^ 32 + (d.lowBits.getLsbD 31).toNat := by
  rw [lowTop_eq_lineBit, or_lineBit_toNat (by rw [shiftLeft_one_toNat]; omega), shiftLeft_one_toNat]

namespace DecoderState

/-- The pulse step as R100 gives it, in arithmetic on numbers. -/
theorem pulse_eq_ofNat (b : Bool) (now : Time) (d : DecoderState) : d.pulse b now = { d with
    bitCount := d.bitCount + 1
    highBits :=
      if 31 < (d.bitCount.toNat + 1) % 2 ^ 32 then
        BitVec.ofNat 32 (2 * d.highBits.toNat + (d.lowBits.getLsbD 31).toNat)
      else d.highBits
    lowBits := BitVec.ofNat 32 (2 * d.lowBits.toNat) ||| lineBit b <<< 1
    lastPulseTime := now } := by
  have hcarry : d.highBits <<< 1 ||| lowTop d =
      BitVec.ofNat 32 (2 * d.highBits.toNat + (d.lowBits.getLsbD 31).toNat) := by
    apply BitVec.eq_of_toNat_eq
    have hbit := Bool.toNat_lt (d.lowBits.getLsbD 31)
    rw [carry_toNat, BitVec.toNat_ofNat]
    omega
  rw [← hcarry, ← shiftLeft_one_eq_ofNat, ← BitVec.shiftLeft_or_distrib]
  rfl

theorem pulse_highBits_of_no_carry {d : DecoderState} (h : (d.bitCount + 1).toNat ≤ 31) (b : Bool) (now : Time) :
    (d.pulse b now).highBits = d.highBits := by
  rw [pulse_highBits, if_neg (Nat.not_lt.mpr h)]

end DecoderState

/-- Settles O4: the word by the encoder, the refusal by the missing decoder, the next state by the pulse step with the
line's bit 0. -/
theorem pulseD0Step : Obligations.PulseD0Step :=
  ⟨encodedAs_encode .pulseD0, refusedBeforeInit nofun, fun s d hd =>
    (exec_afterInit hd .pulseD0).trans (by
      have hbit : lineBit false <<< 1 = 0#32 := rfl
      rw [afterEvent, DecoderState.pulse_eq_ofNat, hbit, BitVec.or_zero]; rfl)⟩

/-- Settles O5: as O4, where the line's bit 1 stands in bit 1 after the shift. -/
theorem pulseD1Step : Obligations.PulseD1Step :=
  ⟨encodedAs_encode .pulseD1, refusedBeforeInit nofun, fun s d hd =>
    (exec_afterInit hd .pulseD1).trans (by rw [afterEvent, DecoderState.pulse_eq_ofNat]; rfl)⟩

/-! ## Runs of pulses -/

/-- A run of pulses completes, with the pulses in the decoder and nothing else of the block changed. -/
theorem runEvents_pulseTrain (ps : List (Bool × Time)) {s : State} {d : DecoderState} (hd : s.ds = some d) :
    ∃ t, runEvents (pulseTrain ps) s = .next t ∧ t.ds = some (d.pulses ps) ∧
      t.tx = s.tx ∧ t.port = s.port ∧ t.params = s.params := by
  obtain ⟨t, hrun, ht⟩ := runEvents_pulseTrain_append ps [] hd
  rw [List.append_nil, runEvents_nil] at hrun
  exact ⟨_, hrun, ht⟩

theorem frameValue_append_singleton (bits : List Bool) (b : Bool) :
    frameValue (bits ++ [b]) = 2 * frameValue bits + b.toNat := by
  simp [frameValue]

theorem frameValue_lt (bits : List Bool) : frameValue bits < 2 ^ bits.length := by
  induction bits using List.reverseRecOn with
  | nil => exact Nat.one_pos
  | append_singleton bits b ih =>
    have hb := Bool.toNat_lt b
    rw [frameValue_append_singleton, List.length_append, List.length_singleton, Nat.pow_succ]
    omega

namespace DecoderState

theorem pulses_append_singleton (ps : List (Bool × Time)) (p : Bool × Time) (d : DecoderState) :
    d.pulses (ps ++ [p]) = (d.pulses ps).pulse p.1 p.2 := by
  simp [pulses]

/-- The accumulators hold the frame value `f`: `f` stands above the free bit 0 of `high_bits:low_bits` (R102). -/
def Accumulates (d : DecoderState) (f : Nat) : Prop :=
  d.lowBits.toNat = 2 * f % 2 ^ 32 ∧ d.highBits.toNat = f / 2 ^ 31 % 2 ^ 32

theorem Cleared.accumulates_zero {d : DecoderState} (h : d.Cleared) : d.Accumulates 0 := by
  obtain ⟨-, hlow, hhigh⟩ := h
  exact ⟨by rw [hlow]; rfl, by rw [hhigh]; rfl⟩

/-- The pair of accumulators, read as one number. -/
theorem Accumulates.append_toNat {d : DecoderState} {f : Nat} (h : d.Accumulates f) :
    (d.highBits ++ d.lowBits).toNat = 2 * f % 2 ^ 64 := by
  obtain ⟨hlow, hhigh⟩ := h
  rw [BitVec.toNat_append, ← Nat.shiftLeft_add_eq_or_of_lt d.lowBits.isLt, Nat.shiftLeft_eq, hlow, hhigh]
  omega

/-- A pulse appends its bit to the frame value. It may leave out the carry only while the value has fewer than 31 bits:
then `low_bits[31]` is 0. -/
theorem Accumulates.pulse {d : DecoderState} {f : Nat} (h : d.Accumulates f)
    (hf : (d.bitCount + 1).toNat ≤ 31 → f < 2 ^ 30) (b : Bool) (now : Time) :
    (d.pulse b now).Accumulates (2 * f + b.toNat) := by
  obtain ⟨hlow, hhigh⟩ := h
  have hb := Bool.toNat_lt b
  refine ⟨?_, ?_⟩
  · rw [pulse_lowBits, shiftLeft_one_toNat, or_lineBit_toNat (by omega), hlow]
    omega
  · by_cases hc : (d.bitCount + 1).toNat ≤ 31
    · have hsmall := hf hc
      rw [pulse_highBits_of_no_carry hc, hhigh]
      omega
    · rw [pulse_highBits, if_pos (Nat.lt_of_not_le hc), carry_toNat, BitVec.getLsbD, Nat.toNat_testBit, hlow, hhigh]
      omega

theorem bitCount_succ_toNat {d : DecoderState} (h : d.bitCount.toNat + 1 < 2 ^ 32) :
    (d.bitCount + 1).toNat = d.bitCount.toNat + 1 :=
  BitVec.toNat_add_of_lt h

/-- Pulses from a count of 0 are counted exactly while there are fewer than 2^32 (R102). -/
theorem pulses_bitCount_toNat {d : DecoderState} (h : d.bitCount = 0) {ps : List (Bool × Time)}
    (hn : ps.length < 2 ^ 32) : (d.pulses ps).bitCount.toNat = ps.length := by
  rw [pulses_bitCount, h, BitVec.ofNat_eq_ofNat, BitVec.zero_add, BitVec.toNat_ofNat, Nat.mod_eq_of_lt hn]

/-- From cleared accumulators the carry sets in with pulse 32, so it is never missed (R102). -/
theorem Cleared.pulses_accumulates {d : DecoderState} (h : d.Cleared) {ps : List (Bool × Time)}
    (hn : ps.length < 2 ^ 32) : (d.pulses ps).Accumulates (frameValue (ps.map Prod.fst)) := by
  induction ps using List.reverseRecOn with
  | nil => exact h.accumulates_zero
  | append_singleton ps p ih =>
    rw [List.length_append, List.length_singleton] at hn
    have hps := Nat.lt_of_succ_lt hn
    rw [pulses_append_singleton, List.map_append, List.map_singleton, frameValue_append_singleton]
    refine (ih hps).pulse (fun hc => ?_) p.1 p.2
    rw [bitCount_succ_toNat (by rwa [pulses_bitCount_toNat h.1 hps]), pulses_bitCount_toNat h.1 hps] at hc
    calc frameValue (ps.map Prod.fst)
      _ < 2 ^ (ps.map Prod.fst).length := frameValue_lt _
      _ ≤ 2 ^ 30 := Nat.pow_le_pow_right (by decide) (by rw [List.length_map]; omega)

/-- While the count stays at most 31, no pulse carries. -/
theorem pulses_highBits_of_no_carry (ps : List (Bool × Time)) {d : DecoderState}
    (h : d.bitCount.toNat + ps.length ≤ 31) : (d.pulses ps).highBits = d.highBits := by
  induction ps generalizing d with
  | nil => rfl
  | cons p ps ih =>
    rw [List.length_cons] at h
    have hcount : (d.bitCount + 1).toNat = d.bitCount.toNat + 1 := bitCount_succ_toNat (by omega)
    rw [pulses_cons, ih (by rw [pulse_bitCount, hcount]; omega), pulse_highBits_of_no_carry (by omega)]

end DecoderState

/-- Settles O6: a run of pulses is the fold of the pulse step, whose invariant is `Accumulates`. -/
theorem pulsesAccumulateTheFrameValue : Obligations.PulsesAccumulateTheFrameValue := by
  intro s d ps hd hcleared hn
  obtain ⟨t, hrun, ht, htx, hport, hparams⟩ := runEvents_pulseTrain ps hd
  have hacc := hcleared.pulses_accumulates hn
  exact ⟨t, d.pulses ps, hrun, ht, DecoderState.pulses_bitCount_toNat hcleared.1 hn, hacc.1, hacc.2,
    hacc.append_toNat, DecoderState.pulses_lastPulseTime ps d, DecoderState.pulses_decodedCode ps d,
    DecoderState.pulses_decodedWidth ps d, htx, hport, hparams⟩

/-- Settles O7: the first pulse takes the count to 0, and the others, at most 31, do not take it above 31. -/
theorem countWrapSkipsTheCarry : Obligations.CountWrapSkipsTheCarry := by
  rintro s d (_ | ⟨p, ps⟩) hd hcount hpos hlength
  · exact absurd hpos (by decide)
  obtain ⟨t, hrun, ht, -⟩ := runEvents_pulseTrain (p :: ps) hd
  rw [List.length_cons] at hlength
  have hzero : (d.pulse p.1 p.2).bitCount = 0 := by rw [DecoderState.pulse_bitCount, hcount]; rfl
  have hzero_toNat : (d.pulse p.1 p.2).bitCount.toNat = 0 := congrArg BitVec.toNat hzero
  refine ⟨t, _, hrun, ht, ?_, ?_⟩
  · rw [DecoderState.pulses_cons, DecoderState.pulses_bitCount_toNat hzero (by omega), List.length_cons,
      Nat.add_sub_cancel]
  · have hwrap : (d.bitCount + 1).toNat ≤ 31 := by rw [hcount]; decide
    rw [DecoderState.pulses_cons, DecoderState.pulses_highBits_of_no_carry ps (by omega),
      DecoderState.pulse_highBits_of_no_carry hwrap]

end Sys2Proof.Machine

/-! PROOFS of the family 41_resolution.md: POLL by its conditions (R110 to R115), where a frame stands in the
accumulators (R113, R114, R117, R118), and that a received frame is decoded (R120). -/

namespace Sys2Proof.Machine

/-! ## POLL by its conditions -/

/-- A POLL within 25 ms writes nothing (41_resolution.md R112). -/
theorem poll_of_silence_le (p : Params) {now : Time} {d : DecoderState} (h : silence now d.lastPulseTime ≤ 25) :
    d.poll p now = (d, .pending) :=
  poll_of_pending (by rwa [elapsed_toNat])

theorem not_elapsed_le_of_silence {now last : Time} (hs : 25 < silence now last) :
    ¬(elapsed now last).toNat ≤ Config.silenceMs := by
  rw [elapsed_toNat]
  exact Nat.not_le.mpr hs

/-- After the silence 26 pulses are a frame, rejected only by a parity that both parameters ask for (R113). -/
theorem poll_of_count_26 (p : Params) {now : Time} {d : DecoderState} (hs : 25 < silence now d.lastPulseTime)
    (hcount : d.bitCount = 26) :
    d.poll p now =
      if p.validateParity = true → p.parity26 = true → parity26Ok (frame26 d) = true then
        ({ d.clear with decodedCode := code26 d, decodedWidth := .w26 }, .ok26)
      else (d.clear, .parityFail) := by
  have hrejected : (p.validateParity && p.parity26 && !parity26Ok (frame26 d)) = true ↔
      ¬(p.validateParity = true → p.parity26 = true → parity26Ok (frame26 d) = true) := by simp [and_assoc]
  rw [DecoderState.poll, if_neg (not_elapsed_le_of_silence hs), if_pos hcount, resolve26]
  simp only [hrejected, ite_not]
  split <;> rfl

/-- After the silence 34 pulses are a frame, rejected only by a parity that `VALIDATE_PARITY` asks for (R114). -/
theorem poll_of_count_34 (p : Params) {now : Time} {d : DecoderState} (hs : 25 < silence now d.lastPulseTime)
    (hcount : d.bitCount = 34) :
    d.poll p now =
      if p.validateParity = true → parity34Ok (leading34 d) (code34 d) (trailing34 d) = true then
        ({ d.clear with decodedCode := code34 d, decodedWidth := .w34 }, .ok34)
      else (d.clear, .parityFail) := by
  have h26 : d.bitCount ≠ 26 := by rw [hcount]; decide
  have hrejected : (p.validateParity && !parity34Ok (leading34 d) (code34 d) (trailing34 d)) = true ↔
      ¬(p.validateParity = true → parity34Ok (leading34 d) (code34 d) (trailing34 d) = true) := by simp
  rw [DecoderState.poll, if_neg (not_elapsed_le_of_silence hs), if_neg h26, if_pos hcount, resolve34]
  simp only [hrejected, ite_not]
  split <;> rfl

/-- After the silence every outcome clears the accumulators (R111). -/
theorem poll_cleared_of_silence (p : Params) {now : Time} {d : DecoderState} (hs : 25 < silence now d.lastPulseTime) :
    (d.poll p now).1.Cleared := by
  obtain ⟨hle, -⟩ | ⟨-, ⟨-, -, h⟩ | ⟨-, -, h⟩ | ⟨-, h⟩ | ⟨-, -, h⟩⟩ := poll_cases p now d
  · exact absurd hle (not_elapsed_le_of_silence hs)
  all_goals rw [h]; exact ⟨rfl, rfl, rfl⟩

/-- A POLL that is available has cleared the accumulators (R119). -/
theorem poll_cleared_of_available {p : Params} {now : Time} {d : DecoderState}
    (h : (d.poll p now).2.available = true) : (d.poll p now).1.Cleared := by
  by_cases hs : silence now d.lastPulseTime ≤ 25
  · rw [poll_of_silence_le p hs] at h
    cases h
  · exact poll_cleared_of_silence p (Nat.lt_of_not_le hs)

/-- POLL writes the decoder's registers and the result. -/
theorem exec_poll {s : State} {d : DecoderState} (hd : s.ds = some d) :
    exec .poll s = .next { s with
      ds := some (d.poll s.params s.now).1
      result := .available (d.poll s.params s.now).2.available } :=
  exec_afterInit hd .poll

/-! ## The data bits in the accumulators -/

/-- `high_bits` above `low_bits`, as one value (40_pulse.md R102). -/
abbrev DecoderState.accumulators (d : DecoderState) : BitVec 64 := d.highBits ++ d.lowBits

/-- The shifts and the mask of R113 pick `low_bits[25:2]`. -/
theorem code26_eq_extractLsb' (d : DecoderState) : code26 d = (d.lowBits.extractLsb' 2 24).setWidth 32 := by
  apply BitVec.eq_of_toNat_eq
  have hmask : ((0x1FFFFFE : Word) >>> 1).toNat = 2 ^ 24 - 1 := by decide
  rw [code26, BitVec.ushiftRight_and_distrib, BitVec.toNat_and, hmask, Nat.and_two_pow_sub_one_eq_mod, frame26,
    BitVec.toNat_ushiftRight, BitVec.toNat_ushiftRight, ← Nat.shiftRight_add, BitVec.toNat_setWidth_of_le (by decide),
    BitVec.extractLsb'_toNat]

/-- The shifts and the mask of R114 put `high_bits[1:0]` above `low_bits[31:2]`. -/
theorem code34_eq_append (d : DecoderState) :
    code34 d = d.highBits.extractLsb' 0 2 ++ d.lowBits.extractLsb' 2 30 := by
  apply BitVec.eq_of_toNat_eq
  have hmask : (0x3 : Word).toNat = 2 ^ 2 - 1 := by decide
  have hhigh : ((d.highBits &&& 0x3) <<< 30).toNat = (d.highBits.extractLsb' 0 2).toNat <<< 30 := by
    rw [BitVec.toNat_shiftLeft, BitVec.toNat_and, hmask, Nat.and_two_pow_sub_one_eq_mod, BitVec.extractLsb'_toNat,
      Nat.shiftRight_zero, Nat.shiftLeft_eq]
    omega
  have hlow : (d.lowBits >>> 1 >>> 1).toNat = (d.lowBits.extractLsb' 2 30).toNat := by
    have h := d.lowBits.isLt
    rw [BitVec.toNat_ushiftRight, BitVec.toNat_ushiftRight, BitVec.extractLsb'_toNat, ← Nat.shiftRight_add,
      Nat.shiftRight_eq_div_pow]
    omega
  rw [code34, BitVec.toNat_or, BitVec.toNat_append, hhigh, hlow]

/-- A 34-bit frame's data bits stand above its trailing parity bit and the free bit 0 (30_encoding.md R78). -/
theorem code34_eq_extractLsb' (d : DecoderState) : code34 d = d.accumulators.extractLsb' 2 32 := by
  have hhigh : d.highBits.extractLsb' 0 2 = d.accumulators.extractLsb' 32 2 :=
    (BitVec.extractLsb'_append_eq_of_le (Nat.le_refl 32)).symm
  have hlow : d.lowBits.extractLsb' 2 30 = d.accumulators.extractLsb' 2 30 :=
    (BitVec.extractLsb'_append_eq_of_add_le (by decide)).symm
  rw [code34_eq_append, hhigh, hlow]
  exact BitVec.extractLsb'_append_extractLsb'_eq_extractLsb' rfl

/-! ## The parity groups in the accumulators -/

theorem popcount_extractLsb' {w : Nat} (v : BitVec w) (i n : Nat) :
    popcount (v.extractLsb' i n) = (List.range n).countP fun k => v.getLsbD (i + k) := by
  refine List.countP_congr fun k hk => ?_
  simp [List.mem_range.mp hk]

/-- A group of bits is counted in two parts. -/
theorem popcount_extractLsb'_add {w : Nat} (v : BitVec w) (i n m : Nat) :
    popcount (v.extractLsb' i (n + m)) = popcount (v.extractLsb' i n) + popcount (v.extractLsb' (i + n) m) := by
  simp only [popcount_extractLsb', List.range_add, List.countP_append, List.countP_map, Function.comp_def,
    Nat.add_assoc]

theorem popcount_extractLsb'_one {w : Nat} (v : BitVec w) (i : Nat) :
    popcount (v.extractLsb' i 1) = (v.getLsbD i).toNat := by
  rw [popcount_extractLsb']
  cases h : v.getLsbD i <;> simp [h]

/-- A parity bit above its group: even together (R116). -/
theorem evenParity_iff {w : Nat} (v : BitVec w) (i n : Nat) :
    evenParity (v.getLsbD (i + n)) (v.extractLsb' i n) = true ↔ popcount (v.extractLsb' i (n + 1)) % 2 = 0 := by
  rw [popcount_extractLsb'_add, popcount_extractLsb'_one, evenParity, beq_iff_eq]

/-- A parity bit below its group: odd together (R116). -/
theorem oddParity_iff {w : Nat} (v : BitVec w) (i n : Nat) :
    oddParity (v.getLsbD i) (v.extractLsb' (i + 1) n) = true ↔ popcount (v.extractLsb' i (1 + n)) % 2 = 1 := by
  rw [popcount_extractLsb'_add, popcount_extractLsb'_one, oddParity, beq_iff_eq, Nat.add_comm]

theorem extractLsb'_extractLsb' {w : Nat} (v : BitVec w) {i j n m : Nat} (h : i + n ≤ m) :
    (v.extractLsb' j m).extractLsb' i n = v.extractLsb' (j + i) n := by
  ext k hk
  have hlt : i + k < m := by omega
  simp [BitVec.getElem_extractLsb', hlt, Nat.add_assoc]

/-- The parity rule of R118 on `low_bits`, which holds `F` above its free bit 0. -/
theorem parity26Ok_iff (d : DecoderState) : parity26Ok (frame26 d) = true ↔
    popcount (d.lowBits.extractLsb' 14 13) % 2 = 0 ∧ popcount (d.lowBits.extractLsb' 1 13) % 2 = 1 := by
  have hgroup (i n : Nat) : (frame26 d).extractLsb' i n = d.lowBits.extractLsb' (1 + i) n := by
    ext k hk
    simp [frame26, Nat.add_assoc]
  rw [parity26Ok, Bool.and_eq_true, hgroup, hgroup, frame26, BitVec.getLsbD_ushiftRight, BitVec.getLsbD_ushiftRight]
  exact and_congr (evenParity_iff d.lowBits 14 12) (oddParity_iff d.lowBits 1 12)

/-- The parity rule of R117 on the pair of accumulators. -/
theorem parity34Ok_iff (d : DecoderState) : parity34Ok (leading34 d) (code34 d) (trailing34 d) = true ↔
    popcount (d.accumulators.extractLsb' 18 17) % 2 = 0 ∧ popcount (d.accumulators.extractLsb' 1 17) % 2 = 1 := by
  have hleading : leading34 d = d.accumulators.getLsbD (18 + 16) := by
    rw [leading34, BitVec.getLsbD_append]; rfl
  have htrailing : trailing34 d = d.accumulators.getLsbD 1 := by
    rw [trailing34, BitVec.getLsbD_append]; rfl
  rw [parity34Ok, Bool.and_eq_true, code34_eq_extractLsb', extractLsb'_extractLsb' _ (by decide),
    extractLsb'_extractLsb' _ (by decide), hleading, htrailing]
  exact and_congr (evenParity_iff d.accumulators 18 16) (oddParity_iff d.accumulators 1 16)

/-- The leading half of a 34-bit frame stands in both accumulators. -/
theorem popcount_leadingHalf34 (d : DecoderState) : popcount (d.accumulators.extractLsb' 18 17) =
    popcount (d.highBits.extractLsb' 0 3) + popcount (d.lowBits.extractLsb' 18 14) := by
  have hlow : d.accumulators.extractLsb' 18 14 = d.lowBits.extractLsb' 18 14 :=
    BitVec.extractLsb'_append_eq_of_add_le (by decide)
  have hhigh : d.accumulators.extractLsb' 32 3 = d.highBits.extractLsb' 0 3 :=
    BitVec.extractLsb'_append_eq_of_le (Nat.le_refl 32)
  rw [popcount_extractLsb'_add d.accumulators 18 14 3, hlow, hhigh, Nat.add_comm]

/-! ## The received frame in the accumulators -/

theorem frameValue_append (xs ys : List Bool) :
    frameValue (xs ++ ys) = frameValue xs * 2 ^ ys.length + frameValue ys := by
  induction ys using List.reverseRecOn with
  | nil => simp [frameValue]
  | append_singleton ys b ih =>
    rw [← List.append_assoc, frameValue_append_singleton, frameValue_append_singleton, ih, List.length_append,
      List.length_singleton, Nat.pow_succ]
    ring

theorem frameValue_take (bits : List Bool) (k : Nat) :
    frameValue (bits.take k) = frameValue bits / 2 ^ (bits.drop k).length := by
  conv_rhs => rw [← List.take_append_drop k bits, frameValue_append]
  rw [List.take_append_drop, Nat.mul_comm, Nat.mul_add_div (Nat.two_pow_pos _),
    Nat.div_eq_of_lt (frameValue_lt (bits.drop k)), Nat.add_zero]

theorem frameValue_drop (bits : List Bool) (k : Nat) :
    frameValue (bits.drop k) = frameValue bits % 2 ^ (bits.drop k).length := by
  conv_rhs => rw [← List.take_append_drop k bits, frameValue_append]
  rw [List.take_append_drop, Nat.mul_add_mod', Nat.mod_eq_of_lt (frameValue_lt (bits.drop k))]

/-- The data bits between the two parity bits (30_encoding.md R73, R74). -/
theorem frameValue_interiorBits {n : Nat} {bits : List Bool} (h : bits.length = n + 2) :
    frameValue (interiorBits bits) = frameValue bits / 2 % 2 ^ n := by
  have hdrop : (bits.drop 1).length = n + 1 := by rw [List.length_drop, h]; rfl
  have hlast : ((bits.drop 1).drop n).length = 1 := by rw [List.length_drop, hdrop]; omega
  rw [interiorBits, List.dropLast_eq_take, hdrop, Nat.add_sub_cancel, frameValue_take, hlast, frameValue_drop, hdrop,
    Nat.pow_one, Nat.pow_succ', Nat.mod_mul_right_div_self]

/-- A group of bits that holds received bits counts their 1s. -/
theorem popcount_extractLsb'_of_frameValue {w : Nat} {v : BitVec w} {i : Nat} {bits : List Bool}
    (h : v.toNat / 2 ^ i % 2 ^ bits.length = frameValue bits) :
    popcount (v.extractLsb' i bits.length) = bits.count true := by
  induction bits using List.reverseRecOn generalizing i with
  | nil => rfl
  | append_singleton bits b ih =>
    rw [List.length_append, List.length_singleton, frameValue_append_singleton, Nat.pow_succ'] at h
    have hb := Bool.toNat_lt b
    have hlast : (v.getLsbD i).toNat = b.toNat := by
      rw [BitVec.getLsbD, Nat.toNat_testBit, ← Nat.mod_mul_right_mod _ 2 (2 ^ bits.length), h]
      omega
    have hrest : v.toNat / 2 ^ (i + 1) % 2 ^ bits.length = frameValue bits := by
      rw [Nat.pow_succ, ← Nat.div_div_eq_div_mul, ← Nat.mod_mul_right_div_self, h]
      omega
    rw [List.length_append, List.length_singleton, Nat.add_comm, popcount_extractLsb'_add, popcount_extractLsb'_one,
      ih hrest, hlast, List.count_append, Nat.add_comm]
    cases b <;> rfl

/-- The parity rule of a frame (30_encoding.md R75, R76) on the accumulator that holds it above the free bit 0. -/
theorem halvesParityOk_iff {w : Nat} {v : BitVec w} {half : Nat} {bits : List Bool}
    (hlength : bits.length = half + half) (hv : v.toNat = 2 * frameValue bits) :
    halvesParityOk half bits = true ↔
      popcount (v.extractLsb' (1 + half) half) % 2 = 0 ∧ popcount (v.extractLsb' 1 half) % 2 = 1 := by
  have htake : (bits.take half).length = half := by rw [List.length_take]; omega
  have hdrop : (bits.drop half).length = half := by rw [List.length_drop]; omega
  have hhalf : v.toNat / 2 ^ 1 = frameValue bits := by omega
  have hleading : v.toNat / 2 ^ (1 + half) % 2 ^ (bits.take half).length = frameValue (bits.take half) := by
    rw [Nat.pow_add, ← Nat.div_div_eq_div_mul, hhalf, ← Nat.mod_eq_of_lt (frameValue_lt (bits.take half)),
      frameValue_take, hdrop]
  have htrailing : v.toNat / 2 ^ 1 % 2 ^ (bits.drop half).length = frameValue (bits.drop half) := by
    rw [hhalf, frameValue_drop]
  have hleadingCount := popcount_extractLsb'_of_frameValue hleading
  have htrailingCount := popcount_extractLsb'_of_frameValue htrailing
  rw [htake] at hleadingCount
  rw [hdrop] at htrailingCount
  rw [halvesParityOk, Bool.and_eq_true, beq_iff_eq, beq_iff_eq, hleadingCount, htrailingCount]

/-- Pulses and then a POLL: the run completes and gives what POLL finds in the decoder (41_resolution.md R120). -/
theorem runEvents_pulseTrain_poll (ps : List (Bool × Time)) (now : Time) {s : State} {d : DecoderState}
    (hd : s.ds = some d) :
    ∃ t, runEvents (pulseTrain ps ++ [⟨.poll, now⟩]) s = .next t ∧
      t.result = .available ((d.pulses ps).poll s.params now).2.available ∧
      t.ds = some ((d.pulses ps).poll s.params now).1 := by
  obtain ⟨t, hrun, ht, -, -, hparams⟩ := runEvents_pulseTrain_append ps [⟨.poll, now⟩] hd
  rw [← hparams]
  exact ⟨_, hrun.trans (runEvents_cons ht _ []), rfl, rfl⟩

namespace DecoderState

theorem pulses_lastPulseTime_of_getLast? {ps : List (Bool × Time)} {last : Time}
    (h : (ps.map Prod.snd).getLast? = some last) (d : DecoderState) : (d.pulses ps).lastPulseTime = last := by
  rw [pulses_lastPulseTime, List.getLastD_eq_getLast?, h, Option.getD_some]

end DecoderState

/-- Settles O18: the 26 pulses stand in `low_bits` above its free bit 0, and POLL takes the interior bits from there. -/
theorem received26BitFrameIsDecoded : Obligations.Received26BitFrameIsDecoded := by
  intro s d ps last now hd hcleared hlength hlast hs hparity
  have hbits : (ps.map Prod.fst).length = 26 := by rw [List.length_map, hlength]
  have hcount : (d.pulses ps).bitCount = 26 := by rw [DecoderState.pulses_bitCount, hcleared.1, hlength]; rfl
  have hlow : (d.pulses ps).lowBits.toNat = 2 * frameValue (ps.map Prod.fst) := by
    have hlt := frameValue_lt (ps.map Prod.fst)
    rw [hbits] at hlt
    rw [(hcleared.pulses_accumulates (by omega)).1]
    omega
  have hcode : (code26 (d.pulses ps)).toNat = frameValue (interiorBits (ps.map Prod.fst)) := by
    rw [code26_eq_extractLsb', BitVec.toNat_setWidth_of_le (by decide), BitVec.extractLsb'_toNat, hlow,
      Nat.shiftRight_eq_div_pow, frameValue_interiorBits hbits]
    omega
  have hpoll := poll_of_count_26 s.params (d := d.pulses ps) (now := now)
    (by rwa [DecoderState.pulses_lastPulseTime_of_getLast? hlast]) hcount
  rw [if_pos fun hv h26 => (parity26Ok_iff _).mpr ((halvesParityOk_iff hbits hlow).mp (hparity hv h26))] at hpoll
  obtain ⟨t, hrun, hresult, ht⟩ := runEvents_pulseTrain_poll ps now hd
  rw [hpoll] at hresult ht
  exact ⟨t, _, hrun, hresult, ht, hcode, rfl, rfl, rfl, rfl⟩

/-- Settles O19: the 34 pulses stand in the pair of accumulators above its free bit 0, and POLL takes the interior bits
from there. -/
theorem received34BitFrameIsDecoded : Obligations.Received34BitFrameIsDecoded := by
  intro s d ps last now hd hcleared hlength hlast hs hparity
  have hbits : (ps.map Prod.fst).length = 34 := by rw [List.length_map, hlength]
  have hcount : (d.pulses ps).bitCount = 34 := by rw [DecoderState.pulses_bitCount, hcleared.1, hlength]; rfl
  have hpair : (d.pulses ps).accumulators.toNat = 2 * frameValue (ps.map Prod.fst) := by
    have hlt := frameValue_lt (ps.map Prod.fst)
    rw [hbits] at hlt
    rw [(hcleared.pulses_accumulates (by omega)).append_toNat]
    omega
  have hcode : (code34 (d.pulses ps)).toNat = frameValue (interiorBits (ps.map Prod.fst)) := by
    rw [code34_eq_extractLsb', BitVec.extractLsb'_toNat, hpair, Nat.shiftRight_eq_div_pow,
      frameValue_interiorBits hbits]
    omega
  have hpoll := poll_of_count_34 s.params (d := d.pulses ps) (now := now)
    (by rwa [DecoderState.pulses_lastPulseTime_of_getLast? hlast]) hcount
  rw [if_pos fun hv => (parity34Ok_iff _).mpr ((halvesParityOk_iff hbits hpair).mp (hparity hv))] at hpoll
  obtain ⟨t, hrun, hresult, ht⟩ := runEvents_pulseTrain_poll ps now hd
  rw [hpoll] at hresult ht
  exact ⟨t, _, hrun, hresult, ht, hcode, rfl, rfl, rfl, rfl⟩

/-! ## POLL as an event -/

/-- Settles O10: a pending POLL leaves the decoder, every other outcome clears its accumulators. -/
theorem pollSilenceTest : Obligations.PollSilenceTest := by
  refine ⟨encodedAs_encode .poll, refusedBeforeInit nofun, fun s d hd => ⟨fun hs => ?_, fun hs => ?_⟩⟩
  · rw [exec_poll hd, poll_of_silence_le s.params hs, ← hd]
    rfl
  · exact ⟨_, _, exec_poll hd, rfl, poll_cleared_of_silence s.params hs⟩

/-- Settles O11: with a parity parameter false the frame is not checked. -/
theorem pollDecodes26 : Obligations.PollDecodes26 := by
  intro s d hd hs hcount hparams
  have hunchecked : s.params.validateParity = true → s.params.parity26 = true → parity26Ok (frame26 d) = true := by
    intro hv h26
    simp [hv, h26] at hparams
  rw [exec_poll hd, poll_of_count_26 s.params hs hcount, if_pos hunchecked, code26_eq_extractLsb']
  rfl

/-- Settles O12: without parity validation the frame is not checked. -/
theorem pollDecodes34 : Obligations.PollDecodes34 := by
  intro s d hd hs hcount hv
  rw [exec_poll hd, poll_of_count_34 s.params hs hcount, if_pos (by simp [hv]), code34_eq_append]
  rfl

/-- Settles O13: the two groups of R118 are the halves of the frame in `low_bits`. -/
theorem pollChecksParity26 : Obligations.PollChecksParity26 := by
  intro s d hd hs hcount hv h26
  have hgroups := parity26Ok_iff d
  rw [exec_poll hd, poll_of_count_26 s.params hs hcount]
  by_cases hok : parity26Ok (frame26 d) = true
  · rw [if_pos fun _ _ => hok, if_pos (hgroups.mp hok), code26_eq_extractLsb']
    rfl
  · rw [if_neg fun h => hok (h hv h26), if_neg (mt hgroups.mpr hok)]
    rfl

/-- Settles O14: the two groups of R117 are the halves of the frame in the pair of accumulators. -/
theorem pollChecksParity34 : Obligations.PollChecksParity34 := by
  intro s d hd hs hcount hv
  have htrailing : d.accumulators.extractLsb' 1 17 = d.lowBits.extractLsb' 1 17 :=
    BitVec.extractLsb'_append_eq_of_add_le (by decide)
  have hgroups := parity34Ok_iff d
  rw [popcount_leadingHalf34, htrailing] at hgroups
  rw [exec_poll hd, poll_of_count_34 s.params hs hcount]
  by_cases hok : parity34Ok (leading34 d) (code34 d) (trailing34 d) = true
  · rw [if_pos fun _ => hok, if_pos (hgroups.mp hok), code34_eq_append]
    rfl
  · rw [if_neg fun h => hok (h hv), if_neg (mt hgroups.mpr hok)]
    rfl

/-- Settles O15: what POLL finds in any other count is noise. -/
theorem pollDiscardsNoise : Obligations.PollDiscardsNoise := by
  intro s d hd hs h26 h34
  rw [exec_poll hd, poll_of_noise s.params hs h26 h34]
  rfl

/-- Settles O16: the first POLL has cleared the accumulators, and on cleared ones none is available. -/
theorem noSecondAvailableForOneFrame : Obligations.NoSecondAvailableForOneFrame := by
  intro s t now h ha
  obtain ⟨hi, -⟩ | ⟨d, -, rfl⟩ := exec_next_cases h
  · cases hi
  have hcleared : (d.poll s.params s.now).1.Cleared := poll_cleared_of_available (Result.available.inj ha)
  obtain ⟨⟨x, hx⟩, hnone⟩ := DecoderState.poll_of_cleared s.params now hcleared
  exact ⟨_, _, _, exec_poll rfl, congrArg Result.available hnone, rfl, congrArg some hx, rfl, rfl, hcleared⟩

/-- Times reduced modulo 2^32 differ by the true gap modulo 2^32 (70_reset_and_hazards.md R208). -/
theorem silence_ofNat (pulseAt gap : Nat) :
    silence (BitVec.ofNat 32 (pulseAt + gap)) (BitVec.ofNat 32 pulseAt) = gap % 2 ^ 32 := by
  rw [silence, BitVec.toNat_ofNat, BitVec.toNat_ofNat]
  omega

/-- Settles O21: the silence POLL tests is the true gap modulo 2^32. -/
theorem pollSeesTheTrueGapModulo2To32 : Obligations.PollSeesTheTrueGapModulo2To32 := by
  intro s d pulseAt gap hd hlast hnow
  obtain ⟨-, -, hpoll⟩ := pollSilenceTest
  rw [← silence_ofNat pulseAt gap, ← hlast, ← hnow]
  exact hpoll s d hd

end Sys2Proof.Machine

/-! PROOFS of the family 42_accessors.md: GET_CODE and GET_WIDTH (R130, R132), and the credential along a run without
a new success (R133). -/

namespace Sys2Proof.Machine

/-! ## The getters -/

/-- Settles O23: with a decoder GET_CODE's meaning is the state with `decoded_code` as its result. -/
theorem getCodeReturnsTheCredential : Obligations.GetCodeReturnsTheCredential :=
  ⟨encodedAs_encode .getCode, refusedBeforeInit nofun, fun _ _ hd => exec_afterInit hd .getCode⟩

/-- Settles O25: the byte is `DecodedWidth.toByte` of the stored width, one value a width. -/
theorem getWidthReturnsTheWidth : Obligations.GetWidthReturnsTheWidth :=
  ⟨encodedAs_encode .getWidth, refusedBeforeInit nofun, fun _ d hd =>
    ⟨d.decodedWidth.toByte, exec_afterInit hd .getWidth,
      fun h => by rw [h]; rfl, fun h => by rw [h]; rfl, fun h => by rw [h]; rfl⟩⟩

/-! ## The credential along a run -/

/-- A run of steps goes on exactly where its first step does and the other steps do from there. -/
theorem runSteps_succ_eq_next_iff {n : Nat} {s t : State} :
    runSteps (n + 1) s = .next t ↔ ∃ u, step s = .next u ∧ runSteps n u = .next t := by
  rw [runSteps]
  cases step s <;> simp

/-- No event takes or places an input. -/
theorem exec_keeps_inputs {i : Instr} {s t : State} (h : exec i s = .next t) : t.inputs = s.inputs := by
  obtain ⟨-, rfl⟩ | ⟨d, -, rfl⟩ := exec_next_cases h
  · rfl
  · cases i <;> rfl

/-- `runEvents` over the steps themselves, for a state that already holds the run's inputs. Each event but INIT and a
POLL that is available leaves the credential (R28), and leaves the inputs of the rest of the run. -/
theorem runSteps_keeps_credential {es : List TimedEvent} {s t : State} {d : DecoderState}
    (hin : s.inputs = es.map TimedEvent.toInput) (hd : s.ds = some d) (hrun : runSteps es.length s = .next t)
    (hinit : ∀ e ∈ es, e.instr ≠ .init)
    (hres : ∀ n u, 0 < n → n ≤ es.length → runSteps n s = .next u → u.result ≠ .available true) :
    ∃ e, t.ds = some e ∧ e.decodedCode = d.decodedCode ∧ e.decodedWidth = d.decodedWidth := by
  induction es generalizing s d with
  | nil =>
    cases hrun
    exact ⟨d, hd, rfl, rfl⟩
  | cons ev es ih =>
    obtain ⟨hev, hes⟩ := List.forall_mem_cons.mp hinit
    obtain ⟨u, hstep, hrest⟩ := runSteps_succ_eq_next_iff.mp hrun
    have hexec := (step_encode hin).symm.trans hstep
    have hu : u.result ≠ .available true :=
      hres 1 u (by decide) (by simp) (runSteps_succ_eq_next_iff.mpr ⟨u, hstep, rfl⟩)
    obtain hi | ⟨-, ha⟩ | ⟨c, hc, hcode, hwidth⟩ := onlyInitAndSuccessWriteTheCredential _ _ u d (by exact hd) hexec
    · exact absurd hi hev
    · exact absurd ha hu
    · have hresRest : ∀ n v, 0 < n → n ≤ es.length → runSteps n u = .next v → v.result ≠ .available true :=
        fun n v _ hn hv =>
          hres (n + 1) v n.succ_pos (Nat.succ_le_succ hn) (runSteps_succ_eq_next_iff.mpr ⟨u, hstep, hv⟩)
      obtain ⟨e, he, hcode', hwidth'⟩ := ih (exec_keeps_inputs hexec) hc hrest hes hresRest
      exact ⟨e, he, hcode'.trans hcode, hwidth'.trans hwidth⟩

/-- Settles O29: the run's steps, one an event, keep the credential (R133). -/
theorem credentialPersistsUntilTheNextSuccess : Obligations.CredentialPersistsUntilTheNextSuccess := by
  intro es s t d hd hrun hinit hres
  rw [runEvents, runInputs, List.length_map] at hrun
  exact runSteps_keeps_credential (s := { s with inputs := es.map TimedEvent.toInput }) rfl hd hrun hinit hres

end Sys2Proof.Machine

/-! PROOFS of the family 43_frame_encoder.md: the receiver reads a frame's inside back (R153), the escape rule (R141,
R149), SEND as an event (R142 to R146), and the length and the delimiters of a frame (R148, R150). -/

namespace Sys2Proof.Machine

/-! ## The receiver reads a frame back -/

/-- Cutting off `START` and `STOP` leaves what stands between them (R144, R145). -/
theorem dropLast_drop_frame (p : FramePayload) : ((frame p).drop 1).dropLast = frameInside p :=
  List.dropLast_concat

/-- Settles O35: the inside is an escaped text, and the receiver undoes the escaping of any text. -/
theorem unescapeRecoversPayloadAndChecksum : Obligations.UnescapeRecoversPayloadAndChecksum := by
  intro p
  rw [dropLast_drop_frame, frameInside_eq, unescape_escapeBytes]

/-! ## The escape rule -/

/-- The reserved set in decimal (30_encoding.md R80). -/
theorem isReserved_iff_toNat {b : Byte} : isReserved b = true ↔ b.toNat = 1 ∨ b.toNat = 4 ∨ b.toNat = 10 := by
  simp [isReserved, Config.start, Config.stop, Config.esc, BitVec.toNat_eq, or_assoc]

/-- The second byte of a pair is 21, 24 or 30. -/
theorem add_escOffset_cases {b : Byte} (h : isReserved b = true) :
    b + Config.escOffset = 21 ∨ b + Config.escOffset = 24 ∨ b + Config.escOffset = 30 := by
  obtain rfl | rfl | rfl := isReserved_eq_true h <;> decide

/-- No pair collides again (R149). -/
theorem isReserved_add_escOffset {b : Byte} (h : isReserved b = true) :
    isReserved (b + Config.escOffset) = false := by
  obtain h | h | h := add_escOffset_cases h <;> rw [h] <;> rfl

theorem ofNat_toNat_add_escOffset (b : Byte) : BitVec.ofNat 8 (b.toNat + 20) = b + Config.escOffset := by
  rw [BitVec.ofNat_add, BitVec.ofNat_toNat, BitVec.setWidth_eq]
  rfl

/-- Settles O31: the two forms of `esc`, and the receiver's reading of either. -/
theorem escapeRule : Obligations.EscapeRule := by
  intro b tail
  rw [← isReserved_iff_toNat, ofNat_toNat_add_escOffset]
  refine ⟨fun h => ⟨?_, isReserved_add_escOffset h⟩, fun h => ?_, unescape_escapeByte_append b tail⟩
  · exact if_pos h
  · exact if_neg h

/-! ## SEND -/

/-- The sum of bytes in arithmetic (R143). -/
theorem byteSum_toNat (bs : List Byte) : (byteSum bs).toNat = (bs.map BitVec.toNat).sum % 256 := by
  induction bs using List.reverseRecOn with
  | nil => rfl
  | append_singleton bs b ih =>
    have hsum : byteSum (bs ++ [b]) = byteSum bs + b := List.foldl_concat ..
    rw [hsum, BitVec.toNat_add, ih]
    simp

/-- The escaped body byte by byte, in wire order (R142). -/
theorem frameBody_eq (p : FramePayload) :
    frameBody p = escapeByte p.deviceId ++ escapeByte p.counterHigh ++ escapeByte p.counterLow ++
      escapeByte p.cred3 ++ escapeByte p.cred2 ++ escapeByte p.cred1 ++ escapeByte p.cred0 := by
  simp [frameBody, FramePayload.toList]

/-- Settles O32: with a decoder SEND's meaning emits `frame p`, whose body and checksum are those of the statement. -/
theorem sendEmitsTheFrame : Obligations.SendEmitsTheFrame := by
  refine ⟨fun p => ⟨encodedAs_encode (.send p), refusedBeforeInit nofun⟩, fun p s d body cs hd hbody hcs => ?_⟩
  obtain rfl : body = frameBody p := hbody.trans (frameBody_eq p).symm
  obtain rfl : cs = checksum p := BitVec.eq_of_toNat_eq (hcs.trans (byteSum_toNat _).symm)
  have hframe : frame p = [1] ++ frameBody p ++ escapeByte (checksum p) ++ [4] := by
    rw [frame, frameInside, ← List.append_assoc]
    rfl
  rw [← hframe]
  exact exec_afterInit hd (.send p)

/-! ## The length of a frame -/

/-- Each reserved byte costs one byte more. -/
theorem escapeBytes_length (bs : List Byte) : (escapeBytes bs).length = bs.length + bs.countP isReserved := by
  induction bs with
  | nil => rfl
  | cons b bs ih =>
    rw [escapeBytes_cons, List.length_append, escapeByte_length, ih, List.countP_cons, List.length_cons]
    cases isReserved b <;> simp +arith

theorem frame_length (p : FramePayload) :
    (frame p).length = 10 + p.toList.countP isReserved + (isReserved (checksum p)).toNat := by
  have hpayload : p.toList.length = 7 := rfl
  simp only [frame, frameInside, frameBody, List.length_append, escapeBytes_length, escapeByte_length,
    List.length_singleton, hpayload]
  omega

/-- The payload of `k` bytes 1 in front of bytes 0, for `k` up to 7. -/
def payloadOfOnes (k : Nat) : FramePayload :=
  let byte (i : Nat) : Byte := if i < k then 1 else 0
  ⟨byte 0, byte 1, byte 2, byte 3, byte 4, byte 5, byte 6⟩

/-- Each byte 1 makes the frame one byte longer; none of these payloads has a reserved checksum. -/
theorem frame_payloadOfOnes_length : ∀ k ≤ 7, (frame (payloadOfOnes k)).length = 10 + k := by decide

/-- The two bytes of a pair add up to 31, 34 or 40. -/
theorem sum_escapeByte_of_reserved {b : Byte} (h : isReserved b = true) :
    ∃ m ≤ 3, ((escapeByte b).map BitVec.toNat).sum = 31 + 3 * m := by
  obtain rfl | rfl | rfl := isReserved_eq_true h
  · exact ⟨0, by decide, rfl⟩
  · exact ⟨1, by decide, rfl⟩
  · exact ⟨3, by decide, rfl⟩

theorem sum_escapeBytes_of_reserved {bs : List Byte} (h : ∀ b ∈ bs, isReserved b = true) :
    ∃ m ≤ 3 * bs.length, ((escapeBytes bs).map BitVec.toNat).sum = 31 * bs.length + 3 * m := by
  induction bs with
  | nil => exact ⟨0, le_rfl, rfl⟩
  | cons b bs ih =>
    obtain ⟨hb, hbs⟩ := List.forall_mem_cons.mp h
    obtain ⟨m, hm, hpair⟩ := sum_escapeByte_of_reserved hb
    obtain ⟨n, hn, hrest⟩ := ih hbs
    refine ⟨m + n, by rw [List.length_cons]; omega, ?_⟩
    rw [escapeBytes_cons, List.map_append, List.sum_append, hpair, hrest, List.length_cons]
    omega

/-- The escaped body of seven reserved bytes adds up to 217 plus a multiple of 3, and to 280 at most: 257, 260 and 266,
the sums with a reserved remainder, are not among these. -/
theorem checksum_notReserved {p : FramePayload} (h : ∀ b ∈ p.toList, isReserved b = true) :
    isReserved (checksum p) = false := by
  obtain ⟨m, hm, hsum⟩ := sum_escapeBytes_of_reserved h
  have hlength : p.toList.length = 7 := rfl
  rw [hlength] at hm hsum
  rw [Bool.eq_false_iff, Ne, isReserved_iff_toNat, checksum, byteSum_toNat, frameBody, hsum]
  omega

/-- Settles O33: the checksum of seven reserved bytes is not reserved, so a frame has at most 17 bytes. -/
theorem frameLengthIs10To17 : Obligations.FrameLengthIs10To17 := by
  refine ⟨fun p => ⟨frame_length p, ?_⟩, fun n h10 h17 => ?_⟩
  · have hcount : p.toList.countP isReserved ≤ 7 := List.countP_le_length
    have hcs : (isReserved (checksum p)).toNat ≤ 1 := Bool.toNat_le _
    have hall : p.toList.countP isReserved = 7 → (isReserved (checksum p)).toNat = 0 := fun h =>
      congrArg Bool.toNat (checksum_notReserved (List.countP_eq_length.mp h))
    rw [frame_length]
    omega
  · exact ⟨payloadOfOnes (n - 10), (frame_payloadOfOnes_length _ (by omega)).trans (by omega)⟩

/-! ## The delimiters of a frame -/

/-- Of the reserved bytes an escaped text holds 10 only. -/
theorem eq_esc_of_mem_escapeBytes {bs : List Byte} {c : Byte} (hc : c ∈ escapeBytes bs) (hr : isReserved c = true) :
    c = Config.esc := by
  obtain ⟨b, -, hcb⟩ := List.mem_flatMap.mp hc
  obtain ⟨hb, he⟩ | ⟨hb, he⟩ := escapeByte_cases b <;> rw [he] at hcb
  · obtain rfl | hcb := List.mem_cons.mp hcb
    · rfl
    · rw [List.mem_singleton.mp hcb, isReserved_add_escOffset hb] at hr
      cases hr
  · rw [List.mem_singleton.mp hcb, hb] at hr
    cases hr

theorem start_notMem_frameInside (p : FramePayload) : Config.start ∉ frameInside p := by
  rw [frameInside_eq]
  exact fun h => absurd (eq_esc_of_mem_escapeBytes h rfl) (by decide)

/-- A byte 10 in an escaped text stands in front of the second byte of its pair. -/
theorem pair_of_getElem?_escapeBytes {bs : List Byte} {k : Nat} (h : (escapeBytes bs)[k]? = some Config.esc) :
    ∃ b, isReserved b = true ∧ (escapeBytes bs)[k + 1]? = some (b + Config.escOffset) := by
  induction bs generalizing k with
  | nil => simp at h
  | cons b bs ih =>
    rw [escapeBytes_cons] at h ⊢
    obtain ⟨hb, he⟩ | ⟨hb, he⟩ := escapeByte_cases b <;> rw [he] at h ⊢
    · match k with
      | 0 => exact ⟨b, hb, rfl⟩
      | 1 =>
        have hsecond : b + Config.escOffset = Config.esc := by simpa using h
        exact absurd (isReserved_add_escOffset hb) (by rw [hsecond]; decide)
      | k + 2 => exact ih h
    · match k with
      | 0 =>
        obtain rfl : b = Config.esc := by simpa using h
        exact absurd hb (by decide)
      | k + 1 => exact ih h

/-- Settles O34: the inside is an escaped text, so it holds no 1 or 4, and its bytes 10 open pairs. -/
theorem frameIsDelimited : Obligations.FrameIsDelimited := by
  intro p
  refine ⟨frameInside p, rfl, start_notMem_frameInside p, stop_notMem_frameInside p, fun k hk => ?_⟩
  rw [frameInside_eq] at hk ⊢
  obtain ⟨b, hb, hnext⟩ := pair_of_getElem?_escapeBytes hk
  simpa only [hnext, Option.some.injEq] using add_escOffset_cases hb

end Sys2Proof.Machine

/-! PROOFS of the family 44_initialize.md: INIT as an event (R160, R162), and the `init` pin, which cuts the frame being
emitted (R162, 70_reset_and_hazards.md R212). -/

namespace Sys2Proof.Machine

/-! ## The handshake of an `init` edge -/

namespace PortState

variable {p : PortState}

/-- Of a frame being emitted the transport takes the byte offered, unless it is the last one (R212). -/
theorem takeCut_taken_of_emission {e : Emission} (h : p.emission = some e) (r : Bool) :
    (p.takeCut r).taken =
      p.taken ++ if r = true ∧ e.idx + 1 < e.buf.length then e.buf[e.idx]?.toList else [] := by
  by_cases hr : r = true ∧ e.idx + 1 < e.buf.length
  · simp [takeCut, takeByte, txData, h, hr]
  · rw [if_neg hr, List.append_nil]
    obtain hp | ⟨e', h', hr', hlt, -⟩ := takeCut_cases r p
    · rw [hp]
    · cases h.symm.trans h'
      exact absurd ⟨hr', hlt⟩ hr

/-- The byte offered, if it is not the frame's last, heads those left without that last one. -/
theorem take_one_dropLast_untaken {e : Emission} (h : p.emission = some e) :
    p.untaken.dropLast.take 1 = if e.idx + 1 < e.buf.length then e.buf[e.idx]?.toList else [] := by
  have huntaken : p.untaken = e.buf.drop e.idx := by simp [untaken, h]
  rw [huntaken, List.dropLast_eq_take, List.take_take, List.length_drop]
  split
  case isTrue hlt => rw [Nat.min_eq_left (by omega), List.take_one, List.head?_drop]
  case isFalse hlast => rw [show min 1 (e.buf.length - e.idx - 1) = 0 by omega, List.take_zero]

/-- The bytes taken at an `init` edge, also where the encoder is idle or its index points past the frame. -/
theorem takeCut_taken (p : PortState) (r : Bool) :
    (p.takeCut r).taken = p.taken ++ if r then p.untaken.dropLast.take 1 else [] := by
  cases h : p.emission with
  | none => simp [takeCut, h, untaken_of_emission_none h]
  | some e =>
    rw [takeCut_taken_of_emission h, take_one_dropLast_untaken h]
    cases r <;> simp

/-- The byte taken, where there is one, prolongs the part of the frame that the transport had. -/
theorem takeCut_taken_of_earlier {e : Emission} (h : p.emission = some e) {earlier : List Byte}
    (htaken : p.taken = earlier ++ e.buf.take e.idx) (r : Bool) :
    (p.takeCut r).taken =
      earlier ++ e.buf.take (if r = true ∧ e.idx + 1 < e.buf.length then e.idx + 1 else e.idx) := by
  rw [takeCut_taken_of_emission h, htaken, List.append_assoc]
  split
  · rw [List.take_add_one]
  · rw [List.append_nil]

end PortState

/-- `STOP` ends a frame and stands nowhere before (30_encoding.md R82, R83). -/
theorem stop_notMem_take_frame {p : FramePayload} {k : Nat} (h : k < (frame p).length) :
    Config.stop ∉ (frame p).take k := by
  have hk : k ≤ (Config.start :: frameInside p).length := by simpa [frame, Nat.lt_succ_iff] using h
  have htake : (frame p).take k = (Config.start :: frameInside p).take k := List.take_append_of_le_length hk
  rw [htake]
  intro hmem
  obtain heq | hinside := List.mem_cons.mp (List.mem_of_mem_take hmem)
  · exact absurd heq (by decide)
  · exact stop_notMem_frameInside p hinside

/-- Settles O56: the edge takes the byte offered unless it is the frame's last, so at most the bytes before `STOP`. -/
theorem initPinCutsTheFrame : Obligations.InitPinCutsTheFrame := by
  intro s pins rest hi
  refine ⟨_, step_edge_of_init hi s rest, rfl, rfl, rfl, rfl, rfl, s.port.takeCut_taken pins.txReady,
    fun e hwf he => ?_⟩
  obtain ⟨⟨payload, hbuf⟩, hidx, earlier, htaken⟩ := hwf e he
  have hproper : (if pins.txReady = true ∧ e.idx + 1 < e.buf.length then e.idx + 1 else e.idx) < e.buf.length := by
    split
    case isTrue hinside => exact hinside.2
    case isFalse => exact hidx
  refine ⟨earlier, _, rfl, hproper, htaken, PortState.takeCut_taken_of_earlier he htaken pins.txReady, ?_⟩
  rw [hbuf] at hproper ⊢
  exact stop_notMem_take_frame hproper

/-! ## The INIT event -/

/-- Settles O2: INIT's meaning asks for no decoder, so it answers in every state. -/
theorem initFromEveryState : Obligations.InitFromEveryState :=
  ⟨encodedAs_encode .init, fun _ => rfl⟩

end Sys2Proof.Machine

/-! PROOFS of the family 60_exceptions.md: what a step refuses (R175), that a run after INIT completes (R170), and that
a single inverted bit of a 34-bit frame is found (R172). -/

namespace Sys2Proof.Machine

/-! ## What a step refuses -/

theorem runEvent_of_reserved {w : EventWord} {why : Reserved} (h : decode w = .error why) (now : Time) (s : State) :
    runEvent w now s = .refused (.reservedEvent why) := by
  simp [runEvent, h]

/-- Settles O47: a reserved word is refused before the state is looked at, and the environment's input takes effect
like a placed one. -/
theorem stepRefusesReservedWords : Obligations.StepRefusesReservedWords := by
  refine ⟨fun s w now rest why hs hw => ?_, fun s hs => ?_⟩
  · rw [step_event hs, runEvent_of_reserved hw]
  · split
    case h_1 x hx => exact step_environment hs hx
    case h_2 hx =>
      have hnone : s.nextInput = none := by simpa [State.nextInput, hs] using hx
      have hdrop : s.dropInput = { s with drawn := s.drawn + 1 } := by simp [State.dropInput, hs]
      rw [step_of_nextInput_none hnone, hdrop]

/-- A meaning is refused only where it asks for the decoder and there is none (10_state.md R40). -/
theorem exec_refused {i : Instr} {s : State} {r : Refusal} (h : exec i s = .refused r) :
    r = .beforeInit ∧ s.ds = none := by
  cases hd : s.ds with
  | none =>
    obtain rfl | hr := exec_beforeInit hd i
    · cases h
    · cases hr.symm.trans h
      exact ⟨rfl, rfl⟩
  | some d => cases (exec_afterInit hd i).symm.trans h

/-- A clock edge is refused only where it asks for the decoder and there is none (10_state.md R40, log 10). -/
theorem clockEdge_refused {pins : PortPins} {s : State} {r : Refusal} (h : clockEdge pins s = .refused r) :
    r = .beforeInit ∧ s.ds = none := by
  cases hi : pins.init with
  | true => cases (clockEdge_of_init hi).symm.trans h
  | false =>
    cases hd : s.ds with
    | some d => cases (clockEdge_of_decoder hi hd).symm.trans h
    | none =>
      cases hq : pins.quiet with
      | true => cases (clockEdge_of_quiet hi hd hq).symm.trans h
      | false =>
        cases (clockEdge_of_beforeInit hi hd hq).symm.trans h
        exact ⟨rfl, rfl⟩

/-- Settles O48: a word is reserved or decodes to an event, and an event or an edge asks for nothing but the decoder. -/
theorem stepRefusesForTwoReasonsOnly : Obligations.StepRefusesForTwoReasonsOnly := by
  intro s r h
  obtain ⟨-, -, hstep⟩ | ⟨w, now, hx, hstep⟩ | ⟨pins, -, hstep⟩ := step_cases s <;> rw [hstep] at h
  · cases h
  · cases hw : decode w with
    | error why =>
      rw [runEvent_of_reserved hw] at h
      cases h
      exact .inr ⟨w, now, why, hx, hw, rfl⟩
    | ok i =>
      rw [runEvent, hw] at h
      exact .inl (by simpa using exec_refused h)
  · exact .inl (by simpa using clockEdge_refused h)

/-! ## Runs after INIT -/

/-- `t` has the inputs that are still to come in `s`, and a decoder if `s` has one. -/
structure State.GoesOnAs (s t : State) : Prop where
  inputs : t.inputs = s.inputs
  drawn : t.drawn = s.drawn
  decoder : s.ds ≠ none → t.ds ≠ none

theorem State.GoesOnAs.of_atTime {s t : State} {now : Time} (h : (s.atTime now).GoesOnAs t) : s.GoesOnAs t :=
  ⟨h.inputs, h.drawn, h.decoder⟩

/-- No event loses the decoder. -/
theorem afterEvent_goesOnAs (i : Instr) (s : State) (d : DecoderState) : s.GoesOnAs (afterEvent i s d) := by
  cases i with
  | init | pulseD0 | pulseD1 | poll => exact ⟨rfl, rfl, fun _ => Option.some_ne_none _⟩
  | getCode | getCodeBytes | getWidth | send => exact ⟨rfl, rfl, id⟩

theorem exec_goesOnAs {i : Instr} {s t : State} (h : exec i s = .next t) : s.GoesOnAs t := by
  obtain ⟨-, rfl⟩ | ⟨d, -, rfl⟩ := exec_next_cases h
  · exact ⟨rfl, rfl, fun _ => Option.some_ne_none _⟩
  · exact afterEvent_goesOnAs i s d

theorem clockEdge_goesOnAs {pins : PortPins} {s t : State} (h : clockEdge pins s = .next t) : s.GoesOnAs t := by
  obtain ⟨-, rfl⟩ | ⟨-, -, -, rfl⟩ | ⟨-, d, -, rfl⟩ := clockEdge_next_cases h
  · exact ⟨rfl, rfl, fun _ => Option.some_ne_none _⟩
  · exact ⟨rfl, rfl, id⟩
  · exact ⟨rfl, rfl, fun _ => Option.some_ne_none _⟩

/-- A step takes one input, and otherwise goes on as before. -/
theorem step_goesOnAs {s t : State} (h : step s = .next t) : s.dropInput.GoesOnAs t := by
  obtain rfl | ⟨i, now, h⟩ | ⟨pins, h⟩ := step_next_cases h
  · exact ⟨rfl, rfl, id⟩
  · exact (exec_goesOnAs h).of_atTime
  · exact (clockEdge_goesOnAs h).of_atTime

/-- With a decoder every run of events completes (R170). -/
theorem runEvents_completes {s : State} (hs : s.ds ≠ none) (es : List TimedEvent) :
    ∃ t, runEvents es s = .next t ∧ t.ds ≠ none ∧ t.inputs = [] := by
  induction es generalizing s with
  | nil => exact ⟨_, runEvents_nil s, hs, rfl⟩
  | cons e es ih =>
    obtain ⟨d, hd⟩ := Option.ne_none_iff_exists'.mp hs
    rw [runEvents_cons hd]
    exact ih ((afterEvent_goesOnAs e.instr (s.atTime e.now) d).decoder hs)

/-- INIT overwrites the decoder, whatever it was, so a run that begins with it goes as from a state with one. -/
theorem runEvents_init_cons (s : State) (now : Time) (es : List TimedEvent) :
    runEvents (⟨.init, now⟩ :: es) s = runEvents (⟨.init, now⟩ :: es) (s.setDecoder .reset) := by
  have hinit (u : State) : step { u with inputs := (⟨.init, now⟩ :: es).map TimedEvent.toInput } =
      exec .init { u with now := now, inputs := es.map TimedEvent.toInput } := step_encode rfl
  have hstep := (hinit s).trans (hinit (s.setDecoder .reset)).symm
  simp only [runEvents, runInputs, List.length_map, List.length_cons, runSteps, hstep]

/-- With a decoder and nothing placed, a step goes on unless the environment gives a reserved word: no other refusal is
left (R175). -/
theorem step_environment_goesOn {s : State} (hds : s.ds ≠ none) (hs : s.inputs = []) :
    (∃ t, step s = .next t ∧ t.ds ≠ none ∧ t.inputs = [] ∧ t.drawn = s.drawn + 1) ∨
    ∃ w now why, Config.environment s.drawn = some (.event w now) ∧ decode w = .error why := by
  cases hstep : step s with
  | next t =>
    obtain ⟨hinputs, hdrawn, hdecoder⟩ := step_goesOnAs hstep
    rw [State.dropInput_inputs, hs] at hinputs
    rw [State.dropInput_drawn, if_pos hs] at hdrawn
    rw [State.dropInput_ds] at hdecoder
    exact .inl ⟨t, rfl, hdecoder hds, hinputs, hdrawn⟩
  | fault r => cases r
  | refused r =>
    obtain ⟨-, hnone⟩ | ⟨w, now, why, hx, hw, -⟩ := stepRefusesForTwoReasonsOnly s r hstep
    · exact absurd hnone hds
    · exact .inr ⟨w, now, why, by simpa [State.nextInput, hs] using hx, hw⟩

/-- Every number of steps goes on unless one of the environment's inputs on the way is a reserved word (R170). -/
theorem runSteps_environment_goesOn (n : Nat) {s : State} (hds : s.ds ≠ none) (hs : s.inputs = []) :
    (∃ t, runSteps n s = .next t ∧ t.ds ≠ none ∧ t.drawn = s.drawn + n) ∨
    ∃ (k : Nat) (w : EventWord) (now : Time) (why : Reserved), s.drawn ≤ k ∧ k < s.drawn + n ∧
      Config.environment k = some (.event w now) ∧ decode w = .error why := by
  induction n generalizing s with
  | zero => exact .inl ⟨s, rfl, hds, rfl⟩
  | succ n ih =>
    obtain ⟨u, hstep, hu, hinputs, hdrawn⟩ | ⟨w, now, why, hx, hw⟩ := step_environment_goesOn hds hs
    · obtain ⟨t, hrun, ht, hturns⟩ | ⟨k, w, now, why, hle, hlt, hx, hw⟩ := ih hu hinputs
      · exact .inl ⟨t, runSteps_succ_eq_next_iff.mpr ⟨u, hstep, hrun⟩, ht, by omega⟩
      · exact .inr ⟨k, w, now, why, by omega, by omega, hx, hw⟩
    · exact .inr ⟨s.drawn, w, now, why, le_rfl, by omega, hx, hw⟩

/-- Settles O49: INIT makes a decoder, no step loses it, and with it only a reserved word is refused. -/
theorem everyEventCompletesAfterInit : Obligations.EveryEventCompletesAfterInit := by
  refine ⟨fun es s now => ⟨?_, fun hs => runEvents_completes hs es⟩, fun n s => runSteps_environment_goesOn n⟩
  rw [runEvents_init_cons]
  exact runEvents_completes (s := s.setDecoder .reset) (Option.some_ne_none _) _

/-! ## A single inverted bit -/

/-- Inverting a bit of a group changes the group's parity. -/
theorem popcount_extractLsb'_xor_twoPow {w : Nat} (v : BitVec w) {i n k : Nat} (hi : i ≤ k) (hk : k < i + n)
    (hw : k < w) :
    (popcount ((v ^^^ BitVec.twoPow w k).extractLsb' i n) + popcount (v.extractLsb' i n)) % 2 = 1 := by
  obtain ⟨a, rfl⟩ := Nat.exists_eq_add_of_le hi
  obtain ⟨b, rfl⟩ : ∃ b, n = a + (1 + b) := ⟨n - a - 1, by omega⟩
  have hbelow : (v ^^^ BitVec.twoPow w (i + a)).extractLsb' i a = v.extractLsb' i a := by
    ext j hj
    simp [BitVec.getLsbD_twoPow, show a ≠ j by omega]
  have habove : (v ^^^ BitVec.twoPow w (i + a)).extractLsb' (i + a + 1) b = v.extractLsb' (i + a + 1) b := by
    ext j hj
    simp [BitVec.getLsbD_twoPow, show i + a ≠ i + a + 1 + j by omega]
  have hbit : (v ^^^ BitVec.twoPow w (i + a)).getLsbD (i + a) = !v.getLsbD (i + a) := by
    simp [hw]
  have hflipped : (!v.getLsbD (i + a)).toNat + (v.getLsbD (i + a)).toNat = 1 := by cases v.getLsbD (i + a) <;> rfl
  simp only [popcount_extractLsb'_add, popcount_extractLsb'_one, hbelow, habove, hbit]
  omega

/-- A bit of the low part of a pair. -/
theorem twoPow_eq_zero_append (m : Nat) {n k : Nat} (h : k < n) :
    BitVec.twoPow (m + n) k = 0#m ++ BitVec.twoPow n k := by
  ext j hj
  rw [BitVec.getElem_twoPow, BitVec.getElem_append]
  split
  case isTrue => rw [BitVec.getElem_twoPow]
  case isFalse hjn => rw [BitVec.getElem_zero, decide_eq_false (by omega)]

/-- A bit of the high part of a pair. -/
theorem twoPow_add_eq_append_zero (m n k : Nat) :
    BitVec.twoPow (m + n) (k + n) = BitVec.twoPow m k ++ 0#n := by
  ext j hj
  rw [BitVec.getElem_twoPow, BitVec.getElem_append]
  split
  case isTrue hjn => rw [BitVec.getElem_zero, decide_eq_false (by omega)]
  case isFalse hjn => rw [BitVec.getElem_twoPow, decide_eq_decide]; omega

namespace DecoderState

@[simp] theorem flipFrameBit_bitCount (k : Nat) (d : DecoderState) : (d.flipFrameBit k).bitCount = d.bitCount := by
  unfold flipFrameBit; split <;> rfl

@[simp] theorem flipFrameBit_lastPulseTime (k : Nat) (d : DecoderState) :
    (d.flipFrameBit k).lastPulseTime = d.lastPulseTime := by
  unfold flipFrameBit; split <;> rfl

@[simp] theorem flipFrameBit_clear (k : Nat) (d : DecoderState) : (d.flipFrameBit k).clear = d.clear := by
  unfold flipFrameBit; split <;> rfl

/-- Frame bit `k` stands in bit `k + 1` of the pair of accumulators (40_pulse.md R103). -/
theorem flipFrameBit_accumulators {k : Nat} (hk : k < 34) (d : DecoderState) :
    (d.flipFrameBit k).accumulators = d.accumulators ^^^ BitVec.twoPow 64 (k + 1) := by
  unfold flipFrameBit
  split
  case isTrue hlow =>
    have hbit : BitVec.twoPow 64 (k + 1) = 0#32 ++ BitVec.twoPow 32 (k + 1) :=
      twoPow_eq_zero_append 32 (n := 32) (by omega)
    rw [accumulators, accumulators, hbit, BitVec.xor_append, BitVec.xor_zero]
  case isFalse hhigh =>
    have hbit : BitVec.twoPow 64 (k + 1) = BitVec.twoPow 32 (k - 31) ++ 0#32 := by
      rw [← twoPow_add_eq_append_zero 32 32 (k - 31), show k - 31 + 32 = k + 1 by omega]
    rw [accumulators, accumulators, hbit, BitVec.xor_append, BitVec.xor_zero]

end DecoderState

/-- A 34-bit frame with correct parity has a wrong one in the half with the inverted bit (41_resolution.md R117). -/
theorem parity34Ok_flipFrameBit {d : DecoderState} {k : Nat} (hk : k < 34)
    (h : parity34Ok (leading34 d) (code34 d) (trailing34 d) = true) :
    parity34Ok (leading34 (d.flipFrameBit k)) (code34 (d.flipFrameBit k)) (trailing34 (d.flipFrameBit k)) ≠ true := by
  obtain ⟨hleading, htrailing⟩ := (parity34Ok_iff d).mp h
  rw [Ne, parity34Ok_iff, DecoderState.flipFrameBit_accumulators hk]
  rintro ⟨hleading', htrailing'⟩
  by_cases hhalf : k < 17
  · have hflip := popcount_extractLsb'_xor_twoPow d.accumulators (i := 1) (n := 17) (k := k + 1)
      (by omega) (by omega) (by omega)
    omega
  · have hflip := popcount_extractLsb'_xor_twoPow d.accumulators (i := 18) (n := 17) (k := k + 1)
      (by omega) (by omega) (by omega)
    omega

/-- A POLL is available only after the silence (41_resolution.md R112). -/
theorem silence_of_available {p : Params} {now : Time} {d : DecoderState} (h : (d.poll p now).2.available = true) :
    25 < silence now d.lastPulseTime := by
  by_contra hs
  rw [poll_of_silence_le p (Nat.le_of_not_lt hs)] at h
  cases h

/-- Settles O17: the accepted frame has the right parity in both halves, so the one with an inverted bit has a wrong
parity, and nothing else POLL looks at has changed. -/
theorem singleBitErrorsOf34AreRejected : Obligations.SingleBitErrorsOf34AreRejected := by
  intro s t d k hd hcount hv hk ht ha
  obtain rfl := eq_afterEvent hd ht
  have havailable : (d.poll s.params s.now).2.available = true := Result.available.inj ha
  have hs := silence_of_available havailable
  have hok : parity34Ok (leading34 d) (code34 d) (trailing34 d) = true := by
    by_contra hbad
    rw [poll_of_count_34 s.params hs hcount, if_neg fun h => hbad (h hv)] at havailable
    cases havailable
  have hrejected : (d.flipFrameBit k).poll s.params s.now = (d.clear, .parityFail) := by
    rw [poll_of_count_34 s.params (by simpa using hs) (by simpa using hcount),
      if_neg fun h => parity34Ok_flipFrameBit hk hok (h hv), DecoderState.flipFrameBit_clear]
  rw [exec_poll rfl, hrejected]
  rfl

end Sys2Proof.Machine

/-! PROOFS of the family 70_reset_and_hazards.md: two simultaneous pulses (R213). -/

namespace Sys2Proof.Machine

theorem extractLsb'_two_eq {w : Nat} {v : BitVec w} {i : Nat} {x : BitVec 2} (hhigh : v.getLsbD (i + 1) = x.getLsbD 1)
    (hlow : v.getLsbD i = x.getLsbD 0) : v.extractLsb' i 2 = x := by
  ext k hk
  obtain rfl | rfl : k = 0 ∨ k = 1 := by omega
  · simpa using hlow
  · simpa using hhigh

namespace DecoderState

/-- The pulse's own bit is the lowest one above the free bit 0 (40_pulse.md R100). -/
theorem WF.pulse_newestBit {d : DecoderState} (h : d.WF) (b : Bool) (now : Time) :
    (d.pulse b now).lowBits.getLsbD 1 = b := by
  have hfree : d.lowBits.getLsbD 0 = false := h.1
  have hline : (lineBit b).getLsbD 0 = b := by cases b <;> rfl
  rw [pulse_lowBits, BitVec.getLsbD_shiftLeft, Nat.sub_self, BitVec.getLsbD_or, hfree, hline]
  rfl

/-- A pulse moves the newest bit before it one place up. -/
theorem pulse_previousBit (b : Bool) (now : Time) (d : DecoderState) :
    (d.pulse b now).lowBits.getLsbD 2 = d.lowBits.getLsbD 1 := by
  have hline : (lineBit b).getLsbD 1 = false := by cases b <;> rfl
  rw [pulse_lowBits, BitVec.getLsbD_shiftLeft, BitVec.getLsbD_or, hline]
  simp

/-- After two pulses, bits 2:1 of `low_bits` are theirs, the older one above. -/
theorem WF.pulses_pair_newestBits {d : DecoderState} (h : d.WF) {p q : Bool × Time} {x : BitVec 2}
    (hp : p.1 = x.getLsbD 1) (hq : q.1 = x.getLsbD 0) : (d.pulses [p, q]).lowBits.extractLsb' 1 2 = x := by
  rw [pulses_cons, pulses_cons, pulses_nil]
  have holder : ((d.pulse p.1 p.2).pulse q.1 q.2).lowBits.getLsbD 2 = p.1 := by
    rw [pulse_previousBit, h.pulse_newestBit]
  have hnewer : ((d.pulse p.1 p.2).pulse q.1 q.2).lowBits.getLsbD 1 = q.1 := (h.pulse _ _).pulse_newestBit _ _
  exact extractLsb'_two_eq (holder.trans hp) (hnewer.trans hq)

end DecoderState

/-- Settles O8: either order is a train of two pulses, which counts both and leaves their bits in order. -/
theorem simultaneousPulsesInEitherOrder : Obligations.SimultaneousPulsesInEitherOrder := by
  intro s d now hd hwf
  obtain ⟨t, hrun, ht, -⟩ := runEvents_pulseTrain [(false, now), (true, now)] hd
  obtain ⟨u, hrun', hu, -⟩ := runEvents_pulseTrain [(true, now), (false, now)] hd
  exact ⟨t, u, _, _, hrun, ht, hrun', hu, DecoderState.pulses_bitCount _ d, DecoderState.pulses_bitCount _ d,
    hwf.pulses_pair_newestBits rfl rfl, hwf.pulses_pair_newestBits rfl rfl⟩

end Sys2Proof.Machine

/-! PROOFS of the family other: the clause under which a word of R70 is refused, and the sample words of
95_test_vectors.md 2.1. -/

namespace Sys2Proof.Machine

/-! ## The clause a reserved word is refused under -/

/-- No event has this `op` (R70, first clause). -/
theorem decode_of_unknown_op {w : EventWord} (hop : w.op ≠ 8#4) (hplain : plainEvent w.op.toNat = none) :
    decode w = .error .opcode := by
  simp [decode, hop, hplain]

/-- An event has this `op`, and `rsv` is not 0 (R70, second clause). -/
theorem decode_of_rsv_ne_zero {w : EventWord} (hop : w.op = 8#4 ∨ ∃ i, plainEvent w.op.toNat = some i)
    (hrsv : w.rsv ≠ 0#4) : decode w = .error .rsvField := by
  by_cases hsend : w.op = 8#4
  · simp [decode, hsend, hrsv]
  · obtain ⟨i, hplain⟩ := hop.resolve_left hsend
    simp [decode, hsend, hplain, hrsv]

/-- An event without an operand has this `op`, and only `operand` is not 0 (R70, third clause). -/
theorem decode_of_operand_ne_zero {w : EventWord} {i : Instr} (hplain : plainEvent w.op.toNat = some i)
    (hrsv : w.rsv = 0#4) (hoperand : w.operand ≠ 0#56) : decode w = .error .operand := by
  have hop : w.op ≠ 8#4 := by
    intro hsend
    rw [hsend] at hplain
    cases hplain
  simp [decode, hop, hplain, hrsv, hoperand]

/-- Settles O43: the two accepted words are the encodings of their events, and each reserved one breaks the clause it is
refused under. -/
theorem sampleWordsDecode : Obligations.SampleWordsDecode :=
  ⟨decode_encode .poll,
    decode_encode (.send ⟨0x12, 0x00, 0x2A, 0x00, 0x12, 0x34, 0x56⟩),
    decode_of_unknown_op (by decide) rfl,
    decode_of_rsv_ne_zero (.inr ⟨.poll, rfl⟩) (by decide),
    decode_of_operand_ne_zero (i := .poll) rfl rfl (by decide),
    decode_of_rsv_ne_zero (.inl rfl) (by decide)⟩

end Sys2Proof.Machine
